-- ==== Sys2Proof/Word.lean ====
section
/-! DEFINITION. Words of the RC5 core: bytes, 32-bit register values, command words and the four word
widths. Widths are spec/00_scope.md R7 and spec/30_encoding.md R93. -/

namespace Sys2Proof

/-- One byte of a block or of the key. -/
abbrev Byte := BitVec 8

/-- One host-visible register: "Every register is 32 bits wide" (spec/10_state.md R23). -/
abbrev Reg32 := BitVec 32

/-- A 128-bit register or RAM entry, which holds a word zero-extended (spec/40_word_alu.md R120). -/
abbrev Reg128 := BitVec 128

/-- The four word widths, w ∈ {16, 32, 64, 128} (spec/00_scope.md R7). -/
inductive Width
  | w16
  | w32
  | w64
  | w128
  deriving DecidableEq, Repr

/-- w, the word width in bits (spec/30_encoding.md R93). -/
def Width.bits : Width → Nat
  | .w16 => 16
  | .w32 => 32
  | .w64 => 64
  | .w128 => 128

/-- u = w/8, the bytes of a word (spec/00_scope.md R7). -/
def Width.bytes (w : Width) : Nat := w.bits / 8

/-- A w-bit word (spec/40_word_alu.md R120). -/
abbrev Word (w : Width) := BitVec w.bits

end Sys2Proof
end

