-- ==== Sys2Proof/Config.lean ====
section
/-! DEFINITION. What an implementation or its platform fixes, and the free values. Every constant here is
opaque: it has no body, so no proof can see its value, and a theorem holds whatever it is. -/

namespace Sys2Proof

/-- FREE VALUE (log entry 4). The value of draw `n`: "an arbitrary value, drawn independently at each
occurrence" (spec/93_implementation_defined.md). Used for reads while busy (spec/70_reset_and_hazards.md
R296), for the data of refused reads (spec/20_memory.md R63, R64) and for reads during reset (R292). -/
opaque Config.freeValue : Nat → Reg32

/-- FREE VALUE (log entry 4). The bus response to an access made while rst = 1: "bus_resp is any value"
(spec/70_reset_and_hazards.md R292); true stands for the error response. -/
opaque Config.freeResp : Nat → Bool

/-- FREE VALUE (log entry 5). `Config.keybufContent e k` is what byte k of KEYBUF holds after reset number
e until the host writes it: "an unspecified value" (spec/70_reset_and_hazards.md R291). -/
opaque Config.keybufContent : Nat → Nat → Byte

/-- FREE VALUE (log entry 5). `Config.subkeyContent e i` is what entry i of S holds after reset number e
until a KS writes it: "an unspecified value" (spec/70_reset_and_hazards.md R291). -/
opaque Config.subkeyContent : Nat → Nat → Reg128

/-- PARAMETER `LAT_KS(w, r, b)` less 1 (log entry 3): the cycles of a KS after the first, which the spec
leaves OPEN (spec/70_reset_and_hazards.md R302). The first argument is the draw, so that the latency may
also depend on what R303 leaves unspecified. -/
opaque Config.latKs : Nat → Nat → Nat → Nat → Nat

/-- PARAMETER `LAT_BLK(w, r)` less 1 (log entry 3), for ENC and DEC; the first argument is the draw. -/
opaque Config.latBlk : Nat → Nat → Nat → Nat

/-- PARAMETER `LAT_ALU(w)` less 1 (log entry 3), for ADD, SUB, XOR, ROTL, ROTR, DESER and SER; the first
argument is the draw. -/
opaque Config.latAlu : Nat → Nat → Nat

/-- PARAMETER `LAT_CTL` less 1 (log entry 3), for NOP and illegal words; the argument is the draw. -/
opaque Config.latCtl : Nat → Nat

/-- PARAMETER `BASE` (log entry 6): the window's base address, a platform choice (spec/00_scope.md R7). -/
opaque Config.base : Nat

end Sys2Proof
end

