-- ==== Sys2Proof/Syntax.lean ====
section
/-! DEFINITION. The eleven commands of spec/opcode_table.json. A command word carries no register
numbers and no immediates (spec/30_encoding.md R92), so no constructor has an argument. -/

namespace Sys2Proof

/-- One constructor for each row of spec/opcode_table.json (spec/30_encoding.md R96). -/
inductive Instr
  /-- no operation (spec/44_control.md R230) -/
  | nop
  /-- key schedule (spec/42_key_schedule.md R177) -/
  | ks
  /-- encrypt one block (spec/43_round_transform.md R205) -/
  | enc
  /-- decrypt one block (spec/43_round_transform.md R206) -/
  | dec
  /-- wrapping addition (spec/40_word_alu.md R129) -/
  | add
  /-- wrapping subtraction (spec/40_word_alu.md R130) -/
  | sub
  /-- exclusive or (spec/40_word_alu.md R131) -/
  | xor
  /-- rotate left (spec/40_word_alu.md R132) -/
  | rotl
  /-- rotate right (spec/40_word_alu.md R133) -/
  | rotr
  /-- block bytes to operand words (spec/41_serializer.md R156) -/
  | deser
  /-- operand words to block bytes (spec/41_serializer.md R157) -/
  | ser
  deriving DecidableEq, Repr

end Sys2Proof
end

