-- ==== Sys2Proof/WellFormed.lean ====
section
/-! DEFINITION. What is well formed: command words (spec/30_encoding.md R91, R96 to R99), instructions,
and the parameters of a SETCFG (R102). -/

namespace Sys2Proof

/-- "reserved; must be 0": RSVD, bits [31:4] of a command word (spec/30_encoding.md R91, R98). -/
def wordRsvdClear (v : Reg32) : Bool := v.extractLsb' 4 28 == 0

/-- OPCODE, bits [3:0], is one of the eleven assigned values 0x0 to 0xA (spec/30_encoding.md R96, R97). -/
def wordOpcodeAssigned (v : Reg32) : Bool := decide ((v.extractLsb' 0 4).toNat ≤ 0xA)

/-- A legal command word (spec/30_encoding.md R99). -/
def wordLegal (v : Reg32) : Bool := wordRsvdClear v && wordOpcodeAssigned v

/-- An instruction is well formed. A command carries no operand (spec/30_encoding.md R92), so there is no
field to check, and every instruction is. -/
def Instr.wellFormed : Instr → Bool
  | .nop => true
  | .ks => true
  | .enc => true
  | .dec => true
  | .add => true
  | .sub => true
  | .xor => true
  | .rotl => true
  | .rotr => true
  | .deser => true
  | .ser => true

/-- The arguments of the pseudo-instruction `SETCFG w, r, b` (spec/30_encoding.md R102). -/
structure ConfigArgs where
  /-- the word width -/
  width : Width
  /-- the round count -/
  rounds : Nat
  /-- the key length in bytes -/
  keyLen : Nat
  deriving DecidableEq, Repr

/-- r and b fit CONFIG's 9-bit fields ROUNDS and KEYLEN (spec/10_state.md R25, spec/45_block_codec_driver.md
R244: "b ≥ 512 or r ≥ 512 cannot be passed to the core"). -/
def ConfigArgs.encodable (c : ConfigArgs) : Bool := decide (c.rounds < 512) && decide (c.keyLen < 512)

/-- r and b are legal: r in 0 to 255 and b in 0 to 256 (spec/00_scope.md R7). -/
def ConfigArgs.legal (c : ConfigArgs) : Bool := decide (c.rounds ≤ 255) && decide (c.keyLen ≤ 256)

end Sys2Proof
end

