-- ==== Sys2Proof/Decode.lean ====
section
/-! DEFINITION. The command decoder and encoder (spec/30_encoding.md R90 to R100). A command is one 32-bit
word; decoding reads no state. -/

namespace Sys2Proof

/-- Why a command word is illegal: both kinds complete with IllegalCommand (spec/60_exceptions.md R256). -/
inductive IllegalWord
  /-- RSVD, bits [31:4], is not 0 (spec/30_encoding.md R98). -/
  | reservedBits
  /-- RSVD is 0 and OPCODE is 0xB to 0xF (spec/30_encoding.md R97). -/
  | reservedOpcode
  deriving DecidableEq, Repr

/-- RSVD, bits [31:4] of a command word (spec/30_encoding.md R91). -/
def wordRsvd (v : Reg32) : BitVec 28 := v.extractLsb' 4 28

/-- OPCODE, bits [3:0] of a command word (spec/30_encoding.md R91). -/
def wordOpcode (v : Reg32) : BitVec 4 := v.extractLsb' 0 4

/-- The opcode map (spec/30_encoding.md R96, R100). -/
def decodeOpcode (o : BitVec 4) : Except IllegalWord Instr :=
  match o.toNat with
  | 0x0 => .ok .nop
  | 0x1 => .ok .ks
  | 0x2 => .ok .enc
  | 0x3 => .ok .dec
  | 0x4 => .ok .add
  | 0x5 => .ok .sub
  | 0x6 => .ok .xor
  | 0x7 => .ok .rotl
  | 0x8 => .ok .rotr
  | 0x9 => .ok .deser
  | 0xA => .ok .ser
  | _ => .error .reservedOpcode

/-- "Decoding as a total function of the 32-bit word v" (spec/30_encoding.md R100). -/
def decode (v : Reg32) : Except IllegalWord Instr :=
  if wordRsvd v ≠ 0 then .error .reservedBits else decodeOpcode (wordOpcode v)

/-- The command word of each mnemonic (spec/30_encoding.md R96). -/
def encode : Instr → Reg32
  | .nop => 0x00000000
  | .ks => 0x00000001
  | .enc => 0x00000002
  | .dec => 0x00000003
  | .add => 0x00000004
  | .sub => 0x00000005
  | .xor => 0x00000006
  | .rotl => 0x00000007
  | .rotr => 0x00000008
  | .deser => 0x00000009
  | .ser => 0x0000000A

/-- The command word of `nbits` bits `w`, numbered as spec/opcode_table.json numbers them, the bits above
`nbits` 0: the value one 32-bit write to CMD carries (spec/30_encoding.md R90). -/
def tableWord (nbits w : Nat) : Reg32 := BitVec.ofNat 32 (w % 2 ^ nbits)

/-- The instruction the decoder reads from a word of the opcode table; none where it refuses. -/
def decodeTableWord (nbits w : Nat) : Option Instr :=
  match decode (tableWord nbits w) with
  | .ok i => some i
  | .error _ => none

end Sys2Proof
end

