-- ==== Sys2Proof/Machine/State.lean ====
section
/-! DEFINITION. The state of the RC5 core (spec/10_state.md), the inputs its host drives, its reset value,
and the reasons a step can stop. -/

namespace Sys2Proof.Machine

/-- The reasons a step can stop with a fault. THERE IS NONE: "The core raises no trap, exception vector or
abort" (spec/60_exceptions.md R250); a command that fails completes with a code in STATUS.ERR. So no
one raises a fault, and no claim is lost (safe). -/
inductive Fault
  deriving DecidableEq, Repr

/-- The reasons a step can be refused. -/
inductive Refusal
  /-- An instruction with no meaning yet. Raised by nobody: every arm of exec has its meaning (safe). -/
  | notModelled (mnemonic : String)
  deriving DecidableEq, Repr

/-- The sequencer of the engine (spec/10_state.md R20). -/
inductive Engine
  /-- no command runs -/
  | idle
  /-- The command word `word` runs. `left` counts the clock edges that pass before the edge it completes
  at: the hidden position of the engine inside its command (spec/10_state.md R22, R43). -/
  | busy (word : Reg32) (left : Nat)
  deriving DecidableEq, Repr

/-- One bus transaction as the host presents it: the input ports of spec/20_memory.md R60. -/
structure Access where
  /-- bus_addr, the byte offset inside the 16 KiB window -/
  addr : BitVec 14
  /-- bus_write, true for a write -/
  write : Bool
  /-- bus_size: 0 = 1 byte, 1 = 2 bytes, 2 = 4 bytes, 3 = reserved -/
  size : BitVec 2
  /-- bus_wdata; of no meaning in a read -/
  wdata : Reg32
  deriving DecidableEq, Repr

/-- What the host drives in one clock cycle: rst, and at most one transaction (spec/20_memory.md R60, R61;
log entry 1). -/
structure CycleInput where
  /-- the reset pin, active high -/
  rst : Bool
  /-- the transaction of this cycle, if there is one -/
  access : Option Access
  deriving DecidableEq, Repr

/-- A cycle in which the host drives nothing. -/
def CycleInput.quiet : CycleInput := { rst := false, access := none }

/-- bus_resp (spec/20_memory.md R60). -/
inductive BusResp
  | ok
  | error
  deriving DecidableEq, Repr

/-- The core's answer to one transaction: "The core returns a response and, for a read, data"
(spec/20_memory.md R61); `rdata` is none in answer to a write (log entry 2). -/
structure Response where
  resp : BusResp
  rdata : Option Reg32
  deriving DecidableEq, Repr

/-- The state of the core, with the host's coming inputs. -/
structure State where
  /-- the engine, IDLE or BUSY(cmd); STATUS.BUSY is read from it (spec/10_state.md R20, R28) -/
  engine : Engine
  /-- CONFIG (spec/10_state.md R25) -/
  config : Reg32
  /-- STATUS.DONE (spec/10_state.md R29) -/
  done : Bool
  /-- STATUS.KEY_VALID (spec/10_state.md R30) -/
  keyValid : Bool
  /-- STATUS.WBUSY (spec/10_state.md R31) -/
  wbusy : Bool
  /-- STATUS.ERR (spec/10_state.md R32) -/
  err : BitVec 4
  /-- IRQ_EN (spec/10_state.md R34) -/
  irqEn : Reg32
  /-- DIN0 to DIN7 (spec/10_state.md R35) -/
  din : Vector Reg32 8
  /-- DOUT0 to DOUT7 (spec/10_state.md R36) -/
  dout : Vector Reg32 8
  /-- OPA (spec/10_state.md R37) -/
  opa : Reg128
  /-- OPB (spec/10_state.md R37) -/
  opb : Reg128
  /-- RES (spec/10_state.md R38) -/
  res : Reg128
  /-- KEYBUF: the bytes the host has written since reset, by index (spec/10_state.md R40) -/
  keybuf : List Host.Cell
  /-- S, the subkey RAM: the entries a KS has written since reset, by index (spec/10_state.md R41) -/
  subkeys : List (Nat × Reg128)
  /-- L, the key-word RAM: the entries a KS has written since reset (spec/10_state.md R42; log entry 8) -/
  keyWords : List (Nat × Reg128)
  /-- bus_resp and bus_rdata of the latest clock cycle, none if it had no transaction (log entry 2) -/
  response : Option Response
  /-- MODEL'S OWN: what the host drives in the coming cycles, next first; after the last, nothing (log
  entry 1) -/
  pins : List CycleInput
  /-- MODEL'S OWN: the number of free values drawn (log entry 4) -/
  draws : Nat
  /-- MODEL'S OWN: the number of reset edges, which selects the unspecified RAM contents (log entry 5) -/
  resets : Nat
  deriving DecidableEq, Repr

/-- The machine right after reset (spec/10_state.md R46). KEYBUF, S and L are unspecified: nothing is
listed. -/
def State.reset : State where
  engine := .idle
  config := 0x00000000
  done := false
  keyValid := false
  wbusy := false
  err := 0
  irqEn := 0x00000000
  din := Vector.replicate 8 0
  dout := Vector.replicate 8 0
  opa := 0
  opb := 0
  res := 0
  keybuf := []
  subkeys := []
  keyWords := []
  response := none
  pins := []
  draws := 0
  resets := 0

end Sys2Proof.Machine
end

