-- ==== Sys2Proof/Machine/Memory.lean ====
section
/-! DEFINITION. The RAMs of the core (KEYBUF, S and L) as lists of index and value pairs in one canonical
form: indexes strictly rising, and exactly the places written since reset listed. What an unlisted place
holds is in Machine/Operands.lean. -/

namespace Sys2Proof.Machine

/-- The value listed at index `a`, if one is. -/
def memLookup {α : Type} : List (Nat × α) → Nat → Option α
  | [], _ => none
  | (k, v) :: m, a => if k = a then some v else memLookup m a

/-- Write `x` at index `a`, keeping the indexes rising. -/
def memWrite {α : Type} : List (Nat × α) → Nat → α → List (Nat × α)
  | [], a, x => [(a, x)]
  | (k, v) :: m, a, x =>
    if a < k then (a, x) :: (k, v) :: m
    else if a = k then (a, x) :: m
    else (k, v) :: memWrite m a x

/-- Write the values of a list at the indexes `a`, `a + 1`, ... in that order. -/
def memWriteList {α : Type} : List (Nat × α) → Nat → List α → List (Nat × α)
  | m, _, [] => m
  | m, a, x :: xs => memWriteList (memWrite m a x) (a + 1) xs

/-- The canonical form of a RAM of `size` places: indexes strictly rising and below `size`. -/
abbrev Memory.wf {α : Type} (size : Nat) (m : List (Nat × α)) : Prop :=
  (m.map Prod.fst).Pairwise (· < ·) ∧ ∀ a ∈ m.map Prod.fst, a < size

end Sys2Proof.Machine
end

