-- ==== Sys2Proof/Machine/WordOps.lean ====
section
/-! DEFINITION. The word rotator/ALU primitives and the constant injector (spec/40_word_alu.md R120 to
R127), and the little-endian conversions (spec/41_serializer.md R150, R151). Each primitive is written
once, for a word of any width. -/

namespace Sys2Proof.Machine

/-- add_w(a, b) = (a + b) mod 2^w (spec/40_word_alu.md R121). -/
def addW {w : Nat} (a b : BitVec w) : BitVec w := BitVec.ofNat w (a.toNat + b.toNat)

/-- sub_w(a, b) = (a + 2^w - b) mod 2^w (spec/40_word_alu.md R121). -/
def subW {w : Nat} (a b : BitVec w) : BitVec w := BitVec.ofNat w (a.toNat + 2 ^ w - b.toNat)

/-- xor_w(a, b) = a ^ b (spec/40_word_alu.md R121). -/
def xorW {w : Nat} (a b : BitVec w) : BitVec w := a ^^^ b

/-- rotl_w(x, n): rotate left, the amount first reduced mod w (spec/40_word_alu.md R122). -/
def rotlW {w : Nat} (x : BitVec w) (n : Nat) : BitVec w :=
  if n % w = 0 then x else (x <<< (n % w)) ||| (x >>> (w - n % w))

/-- rotr_w(x, n): rotate right, with the same reduction (spec/40_word_alu.md R123). -/
def rotrW {w : Nat} (x : BitVec w) (n : Nat) : BitVec w :=
  if n % w = 0 then x else (x >>> (n % w)) ||| (x <<< (w - n % w))

/-- P_w for each width (spec/40_word_alu.md R125). -/
def constP : (w : Width) → Word w
  | .w16 => 0xB7E1#16
  | .w32 => 0xB7E15163#32
  | .w64 => 0xB7E151628AED2A6B#64
  | .w128 => 0xB7E151628AED2A6ABF7158809CF4F3C7#128

/-- Q_w for each width (spec/40_word_alu.md R126). -/
def constQ : (w : Width) → Word w
  | .w16 => 0x9E37#16
  | .w32 => 0x9E3779B9#32
  | .w64 => 0x9E3779B97F4A7C15#64
  | .w128 => 0x9E3779B97F4A7C15F39CC0605CEDC835#128

/-- The number whose bytes are `bs`, the first byte least significant: Σ bs[k] · 2^(8k)
(spec/41_serializer.md R150). -/
def leNat : List Byte → Nat
  | [] => 0
  | b :: bs => b.toNat + 256 * leNat bs

/-- le_w(bs), "fromLittleEndianBytes" (spec/41_serializer.md R150); every caller passes w/8 bytes (R155). -/
def leWord {w : Nat} (bs : List Byte) : BitVec w := BitVec.ofNat w (leNat bs)

/-- bytes_w(x), "toLittleEndianBytes": `u` bytes, byte k = x[8k+7 : 8k] (spec/41_serializer.md R151). -/
def wordBytes {w : Nat} (u : Nat) (x : BitVec w) : List Byte :=
  (List.range u).map fun k => x.extractLsb' (8 * k) 8

end Sys2Proof.Machine
end

