-- ==== Sys2Proof/Machine/Operands.lean ====
section
/-! DEFINITION. The operand forms: the fields of CONFIG (spec/10_state.md R25, spec/30_encoding.md R93,
R94), the operand registers (spec/10_state.md R37), the block lanes (R35, R36, spec/41_serializer.md R153,
R154), the key bytes (R40) and the subkeys (R41). -/

namespace Sys2Proof.Machine

/-- CONFIG.WSEL, bits [2:0]. -/
def State.wsel (s : State) : Nat := (s.config.extractLsb' 0 3).toNat

/-- r = CONFIG.ROUNDS, bits [16:8]. -/
def State.rounds (s : State) : Nat := (s.config.extractLsb' 8 9).toNat

/-- b = CONFIG.KEYLEN, bits [28:20]. -/
def State.keyLen (s : State) : Nat := (s.config.extractLsb' 20 9).toNat

/-- w = 16 << WSEL for WSEL 0 to 3, and no width for 4 to 7 (spec/30_encoding.md R93). -/
def widthOfWsel : Nat → Option Width
  | 0 => some .w16
  | 1 => some .w32
  | 2 => some .w64
  | 3 => some .w128
  | _ => none

/-- The width in CONFIG.WSEL, none when WSEL > 3. -/
def State.width (s : State) : Option Width := widthOfWsel s.wsel

/-- t = 2(r + 1), the number of subkeys (spec/30_encoding.md R94). -/
def subkeyCount (r : Nat) : Nat := 2 * (r + 1)

/-- c = max(1, ceil(b/u)), the number of key words (spec/30_encoding.md R94). -/
def keyWordCount (u b : Nat) : Nat := max 1 ((b + u - 1) / u)

/-- OPA[w−1:0] (spec/40_word_alu.md R128). -/
def State.operandA (s : State) (w : Width) : Word w := s.opa.setWidth w.bits

/-- OPB[w−1:0] (spec/40_word_alu.md R128). -/
def State.operandB (s : State) (w : Width) : Word w := s.opb.setWidth w.bits

/-- zext_128(v) (spec/00_scope.md R10). -/
def zext128 {w : Nat} (x : BitVec w) : Reg128 := x.setWidth 128

/-- Byte m (0 to 3) of a 32-bit register: bits [8m+7 : 8m] (spec/20_memory.md R66). -/
def laneByte (v : Reg32) (m : Nat) : Byte := v.extractLsb' (8 * m) 8

/-- The 32-bit register whose bytes, least significant first, are b0, b1, b2, b3 (spec/20_memory.md R66). -/
def laneReg (b0 b1 b2 b3 : Byte) : Reg32 := b3 ++ b2 ++ b1 ++ b0

/-- Byte n of the 32-byte array seen through eight registers: lane n mod 4 of register n/4
(spec/20_memory.md R66). -/
def blockByte (v : Vector Reg32 8) (n : Nat) : Byte := laneByte (v[n / 4]?.getD 0) (n % 4)

/-- The eight registers that show the byte array `bs`, whose bytes beyond its length are 0. -/
def blockRegs (bs : List Byte) : Vector Reg32 8 :=
  Vector.ofFn fun k => laneReg (bs.getD (4 * k.val) 0) (bs.getD (4 * k.val + 1) 0)
    (bs.getD (4 * k.val + 2) 0) (bs.getD (4 * k.val + 3) 0)

/-- DIN_B[n] (spec/10_state.md R35). -/
def State.dinByte (s : State) (n : Nat) : Byte := blockByte s.din n

/-- DOUT_B[n] (spec/10_state.md R36). -/
def State.doutByte (s : State) (n : Nat) : Byte := blockByte s.dout n

/-- DIN_B[a .. a+n−1]. -/
def State.dinBytes (s : State) (a n : Nat) : List Byte := (List.range n).map fun k => s.dinByte (a + k)

/-- deser_block: A = le_w(DIN_B[0..u−1]), B = le_w(DIN_B[u..2u−1]) (spec/41_serializer.md R153). -/
def State.deserBlock (s : State) (w : Width) : Word w × Word w :=
  (leWord (s.dinBytes 0 w.bytes), leWord (s.dinBytes w.bytes w.bytes))

/-- ser_block: the 32 bytes written to DOUT_B, the serialized block first and 0 above it
(spec/41_serializer.md R154). -/
def serBlock (w : Width) (a b : Word w) : Vector Reg32 8 :=
  blockRegs (wordBytes w.bytes a ++ wordBytes w.bytes b ++ List.replicate (32 - 2 * w.bytes) 0)

/-- KEYBUF[k]: the byte the host wrote, else the unspecified value the RAM holds since reset
(spec/10_state.md R40, spec/70_reset_and_hazards.md R291; log entry 5). -/
def State.keyByte (s : State) (k : Nat) : Byte :=
  (memLookup s.keybuf k).getD (Config.keybufContent s.resets k)

/-- Entry i of S, 128 bits: what the latest KS that wrote it left, else the unspecified value the RAM
holds since reset (spec/10_state.md R41, spec/70_reset_and_hazards.md R291; log entry 5). -/
def State.subkeyEntry (s : State) (i : Nat) : Reg128 :=
  (memLookup s.subkeys i).getD (Config.subkeyContent s.resets i)

/-- S[i] as a word of width w: "A primitive at width w reads only bits [w−1:0] of its operands"
(spec/40_word_alu.md R120). -/
def State.subkey (s : State) (w : Width) (i : Nat) : Word w := (s.subkeyEntry i).setWidth w.bits

/-- Register k of a 128-bit value: bits [32k+31 : 32k] (spec/20_memory.md R67). -/
def quarter (x : Reg128) (k : Nat) : Reg32 := x.extractLsb' (32 * k) 32

/-- The 128-bit value with register k replaced by v (spec/20_memory.md R67). -/
def setQuarter (x : Reg128) (k : Fin 4) (v : Reg32) : Reg128 :=
  (if k = 3 then v else quarter x 3) ++ (if k = 2 then v else quarter x 2) ++
    (if k = 1 then v else quarter x 1) ++ (if k = 0 then v else quarter x 0)

end Sys2Proof.Machine
end

