-- ==== Sys2Proof/Machine/Flags.lean ====
section
/-! DEFINITION. The flags. The core has no condition codes (spec/10_state.md R45); its flags are the bits of
STATUS (R28 to R33), the error codes (spec/60_exceptions.md R251) and the interrupt output (R265). -/

namespace Sys2Proof.Machine

/-- The error kinds of the table in spec/60_exceptions.md R251. -/
inductive ErrorKind
  /-- success -/
  | none
  /-- never raised by the core, only by the host driver (R257) -/
  | invalidPlaintextLength
  /-- never raised by the core, only by the host driver (R257) -/
  | invalidCipherTextLength
  /-- never raised (R258) -/
  | invalidBytes
  /-- never raised (R259) -/
  | invalidKey
  /-- KS with KEYLEN > 256 (R252) -/
  | invalidKeySize
  /-- any command but NOP with WSEL > 3 (R254) -/
  | invalidWordSize
  /-- KS with ROUNDS > 255 (R253) -/
  | invalidRoundsCount
  /-- ENC or DEC with KEY_VALID = 0 (R255) -/
  | noKeySchedule
  /-- an illegal command word (R256) -/
  | illegalCommand
  deriving DecidableEq, Repr

/-- The STATUS.ERR code of each error kind (spec/60_exceptions.md R251). -/
def errorCode : ErrorKind → BitVec 4
  | .none => 0x0
  | .invalidPlaintextLength => 0x1
  | .invalidCipherTextLength => 0x2
  | .invalidBytes => 0x3
  | .invalidKey => 0x4
  | .invalidKeySize => 0x5
  | .invalidWordSize => 0x6
  | .invalidRoundsCount => 0x7
  | .noKeySchedule => 0x8
  | .illegalCommand => 0x9

/-- STATUS.BUSY: "1 exactly while the engine is in BUSY(cmd)" (spec/10_state.md R28). -/
def State.busy (s : State) : Bool :=
  match s.engine with
  | .idle => false
  | .busy _ _ => true

/-- STATUS as a whole: `{24'b0, ERR[3:0], WBUSY, KEY_VALID, DONE, BUSY}` (spec/10_state.md R33). -/
def State.status (s : State) : Reg32 :=
  0#24 ++ s.err ++ BitVec.ofBool s.wbusy ++ BitVec.ofBool s.keyValid ++ BitVec.ofBool s.done ++
    BitVec.ofBool s.busy

/-- A host write of STATUS: bit 1 clears DONE and bit 3 clears WBUSY, independently, and nothing else
changes (spec/10_state.md R29, R31, R33). In the cycle of a completion DONE stays 1: "the new completion
is never lost" (spec/60_exceptions.md R263). -/
def State.writeStatus (completed : Bool) (v : Reg32) (s : State) : State :=
  { s with
    done := s.done && (completed || !v.getLsbD 1)
    wbusy := s.wbusy && !v.getLsbD 3 }

/-- IRQ_EN.DONE_IE, bit 0 (spec/10_state.md R34). -/
def State.doneIe (s : State) : Bool := s.irqEn.getLsbD 0

/-- The output irq = STATUS.DONE & IRQ_EN.DONE_IE (spec/10_state.md R44, spec/60_exceptions.md R265). -/
def State.irq (s : State) : Bool := s.done && s.doneIe

end Sys2Proof.Machine
end

