-- ==== Sys2Proof/Machine/Ops.lean ====
section
/-! DEFINITION. The operations the commands and the bus share: the life cycle of a command (acceptance,
completion: spec/44_control.md R232, R233), an error (spec/60_exceptions.md R250, R264: the core's only kind
of exception) and its acknowledgement (R268), the writes of results, and the drawing of free values. -/

namespace Sys2Proof.Machine

/-- The end of a command: ERR <- code, BUSY <- 0, DONE <- 1, engine <- IDLE (spec/44_control.md R233). -/
def State.complete (code : ErrorKind) (s : State) : State :=
  { s with engine := .idle, done := true, err := errorCode code }

/-- TAKING AN EXCEPTION: `raise E` means `complete(code(E))` with no other write (spec/44_control.md R233,
spec/60_exceptions.md R264). The core saves no state, changes no mode and goes to no handler (R267). -/
def State.raise (e : ErrorKind) (s : State) : State := s.complete e

/-- THE RETURN FROM IT: the host's acknowledgement, a write of STATUS with bit 1 = 1 outside the cycle of
a completion (spec/60_exceptions.md R268). -/
def State.acknowledge (s : State) : State := s.writeStatus false 0x00000002

/-- The latency of command word v in state s, less 1: an open parameter (spec/70_reset_and_hazards.md R302;
log entry 3). For WSEL 4 to 7 the parameter is taken at w = 16 << WSEL. -/
def commandLatency (v : Reg32) (s : State) : Nat :=
  let w := 16 * 2 ^ s.wsel
  match decode v with
  | .ok .nop => Config.latCtl s.draws
  | .ok .ks => Config.latKs s.draws w s.rounds s.keyLen
  | .ok .enc => Config.latBlk s.draws w s.rounds
  | .ok .dec => Config.latBlk s.draws w s.rounds
  | .ok .add => Config.latAlu s.draws w
  | .ok .sub => Config.latAlu s.draws w
  | .ok .xor => Config.latAlu s.draws w
  | .ok .rotl => Config.latAlu s.draws w
  | .ok .rotr => Config.latAlu s.draws w
  | .ok .deser => Config.latAlu s.draws w
  | .ok .ser => Config.latAlu s.draws w
  | .error _ => Config.latCtl s.draws

/-- `decode(v) == KS` (spec/44_control.md R232). -/
def wordIsKs (v : Reg32) : Bool :=
  match decode v with
  | .ok i => decide (i = .ks)
  | .error _ => false

/-- Acceptance of command word v with `left` cycles to run after the next: engine <- BUSY(v), BUSY <- 1,
DONE <- 0, and KEY_VALID <- 0 if v is KS; ERR is not changed (spec/44_control.md R232). -/
def State.acceptFor (left : Nat) (v : Reg32) (s : State) : State :=
  { s with
    engine := .busy v left
    done := false
    keyValid := s.keyValid && !wordIsKs v }

/-- Acceptance of command word v, its latency drawn (spec/44_control.md R232). -/
def State.accept (v : Reg32) (s : State) : State :=
  { s.acceptFor (commandLatency v s) v with draws := s.draws + 1 }

/-- The running command v has one cycle less to run, n after the next (spec/44_control.md R235). -/
def State.runOn (v : Reg32) (n : Nat) (s : State) : State := { s with engine := .busy v n }

/-- RES <- v (spec/10_state.md R38). -/
def State.setRes (v : Reg128) (s : State) : State := { s with res := v }

/-- OPA <- a and OPB <- b (spec/41_serializer.md R156). -/
def State.setOperands (a b : Reg128) (s : State) : State := { s with opa := a, opb := b }

/-- DOUT <- v, all 32 bytes (spec/10_state.md R36). -/
def State.setDout (v : Vector Reg32 8) (s : State) : State := { s with dout := v }

/-- The writes of a successful KS: L[0..c−1], S[0..t−1] and KEY_VALID <- 1 (spec/42_key_schedule.md R177);
entries beyond keep what they held. -/
def State.setSchedule (ls ss : List Reg128) (s : State) : State :=
  { s with
    keyWords := memWriteList s.keyWords 0 ls
    subkeys := memWriteList s.subkeys 0 ss
    keyValid := true }

/-- A dropped write: STATUS.WBUSY <- 1 and "no other change" (spec/70_reset_and_hazards.md R297). -/
def State.dropWrite (s : State) : State := { s with wbusy := true }

/-- A write the busy engine must not see: it lands while the engine is IDLE, and is dropped, setting
STATUS.WBUSY, while it is BUSY (spec/70_reset_and_hazards.md R297). -/
def State.whenIdle (f : State → State) (s : State) : State :=
  match s.engine with
  | .idle => f s
  | .busy _ _ => s.dropWrite

/-- The core answers the transaction of this cycle (spec/20_memory.md R61). -/
def State.respond (r : BusResp) (data : Option Reg32) (s : State) : State :=
  { s with response := some { resp := r, rdata := data } }

/-- The core answers with data of any value, drawn fresh (log entry 4). -/
def State.respondFree (r : BusResp) (s : State) : State :=
  { s with response := some { resp := r, rdata := some (Config.freeValue s.draws) }, draws := s.draws + 1 }

end Sys2Proof.Machine
end

