-- ==== Sys2Proof/Machine/Bus.lean ====
section
/-! DEFINITION. The host interface: the register map (spec/10_state.md R23), reads and writes of each
register, refused accesses (spec/20_memory.md R63, R64), and what the busy engine drops or leaves open
(spec/70_reset_and_hazards.md R296, R297). -/

namespace Sys2Proof.Machine

/-- The host-visible registers (spec/10_state.md R23). -/
inductive Reg
  | id
  | config
  | cmd
  | status
  | irqEn
  | din (k : Fin 8)
  | dout (k : Fin 8)
  | opa (k : Fin 4)
  | opb (k : Fin 4)
  | res (k : Fin 4)
  | pconst (k : Fin 4)
  | qconst (k : Fin 4)
  | key (k : Fin 64)
  | swin (i : Fin 512) (q : Fin 4)
  deriving DecidableEq, Repr

/-- The byte offset of each register (spec/10_state.md R23). -/
def regOffset : Reg → BitVec 14
  | .id => 0x000
  | .config => 0x004
  | .cmd => 0x008
  | .status => 0x00C
  | .irqEn => 0x010
  | .din k => BitVec.ofNat 14 (0x020 + 4 * k.val)
  | .dout k => BitVec.ofNat 14 (0x040 + 4 * k.val)
  | .opa k => BitVec.ofNat 14 (0x060 + 4 * k.val)
  | .opb k => BitVec.ofNat 14 (0x070 + 4 * k.val)
  | .res k => BitVec.ofNat 14 (0x080 + 4 * k.val)
  | .pconst k => BitVec.ofNat 14 (0x090 + 4 * k.val)
  | .qconst k => BitVec.ofNat 14 (0x0A0 + 4 * k.val)
  | .key k => BitVec.ofNat 14 (0x100 + 4 * k.val)
  | .swin i q => BitVec.ofNat 14 (0x1000 + 16 * i.val + 4 * q.val)

/-- The register at an aligned byte offset, none where the map says "reserved" (spec/10_state.md R23,
spec/20_memory.md R64). -/
def regAt (off : BitVec 14) : Option Reg :=
  let n := off.toNat
  if n < 0x020 then
    if n < 0x004 then some .id
    else if n < 0x008 then some .config
    else if n < 0x00C then some .cmd
    else if n < 0x010 then some .status
    else if n < 0x014 then some .irqEn
    else none
  else if n < 0x040 then some (.din (Fin.ofNat 8 ((n - 0x020) / 4)))
  else if n < 0x060 then some (.dout (Fin.ofNat 8 ((n - 0x040) / 4)))
  else if n < 0x070 then some (.opa (Fin.ofNat 4 ((n - 0x060) / 4)))
  else if n < 0x080 then some (.opb (Fin.ofNat 4 ((n - 0x070) / 4)))
  else if n < 0x090 then some (.res (Fin.ofNat 4 ((n - 0x080) / 4)))
  else if n < 0x0A0 then some (.pconst (Fin.ofNat 4 ((n - 0x090) / 4)))
  else if n < 0x0B0 then some (.qconst (Fin.ofNat 4 ((n - 0x0A0) / 4)))
  else if n < 0x100 then none
  else if n < 0x200 then some (.key (Fin.ofNat 64 ((n - 0x100) / 4)))
  else if n < 0x1000 then none
  else if n < 0x3000 then
    some (.swin (Fin.ofNat 512 ((n - 0x1000) / 16)) (Fin.ofNat 4 ((n - 0x1000) % 16 / 4)))
  else none

/-- The register an access reaches: "only 32-bit accesses (bus_size = 2) at offsets with bus_addr[1:0] = 0"
(spec/20_memory.md R63) that the map does not mark reserved (R64); none where the core refuses it. -/
def accessTarget (a : Access) : Option Reg :=
  if a.size = 2 ∧ a.addr.extractLsb' 0 2 = 0 then regAt a.addr else none

/-- The identification constant (spec/10_state.md R24). -/
def idValue : Reg32 := 0x52433501

/-- PCONST: zext_128(P_w) for the width in CONFIG.WSEL, 0 for WSEL 4 to 7 (spec/10_state.md R39). -/
def State.pconst (s : State) : Reg128 :=
  match s.width with
  | none => 0
  | some w => zext128 (constP w)

/-- QCONST: zext_128(Q_w) for the width in CONFIG.WSEL, 0 for WSEL 4 to 7 (spec/10_state.md R39). -/
def State.qconst (s : State) : Reg128 :=
  match s.width with
  | none => 0
  | some w => zext128 (constQ w)

/-- The value a register shows, leaving aside what a busy engine makes open (spec/10_state.md R24 to R41;
CMD reads 0, R27). -/
def State.regValue (s : State) : Reg → Reg32
  | .id => idValue
  | .config => s.config
  | .cmd => 0x00000000
  | .status => s.status
  | .irqEn => s.irqEn
  | .din k => s.din[k]
  | .dout k => s.dout[k]
  | .opa k => quarter s.opa k
  | .opb k => quarter s.opb k
  | .res k => quarter s.res k
  | .pconst k => quarter s.pconst k
  | .qconst k => quarter s.qconst k
  | .key k => laneReg (s.keyByte (4 * k)) (s.keyByte (4 * k + 1)) (s.keyByte (4 * k + 2)) (s.keyByte (4 * k + 3))
  | .swin i q => quarter (s.subkeyEntry i) q

/-- The registers whose reads give any value while the engine is BUSY (spec/70_reset_and_hazards.md R296). -/
def regOpenWhileBusy : Reg → Bool
  | .id => false
  | .config => false
  | .cmd => false
  | .status => false
  | .irqEn => false
  | .din _ => false
  | .dout _ => true
  | .opa _ => true
  | .opb _ => true
  | .res _ => true
  | .pconst _ => false
  | .qconst _ => false
  | .key _ => false
  | .swin _ _ => true

/-- A read of a register: OK, with its value, or with any value where R296 says so. Nothing else changes
(spec/20_memory.md R70). -/
def State.readReg (r : Reg) (s : State) : State :=
  if s.busy && regOpenWhileBusy r then s.respondFree .ok else s.respond .ok (some (s.regValue r))

/-- CONFIG <- v & 0x1FF1FF07, KEY_VALID <- 0 (spec/10_state.md R25, R26). -/
def State.setConfig (v : Reg32) (s : State) : State :=
  { s with config := v &&& 0x1FF1FF07#32, keyValid := false }

/-- IRQ_EN <- v[0]; bits [31:1] ignore writes (spec/10_state.md R34). -/
def State.setIrqEn (v : Reg32) (s : State) : State := { s with irqEn := v &&& 0x00000001#32 }

/-- DINk <- v (spec/10_state.md R35). -/
def State.setDin (k : Fin 8) (v : Reg32) (s : State) : State := { s with din := s.din.set k v }

/-- OPAk <- v (spec/10_state.md R37). -/
def State.setOpa (k : Fin 4) (v : Reg32) (s : State) : State := { s with opa := setQuarter s.opa k v }

/-- OPBk <- v (spec/10_state.md R37). -/
def State.setOpb (k : Fin 4) (v : Reg32) (s : State) : State := { s with opb := setQuarter s.opb k v }

/-- KEYk <- v: all four bytes, and KEY_VALID <- 0 (spec/10_state.md R40). -/
def State.setKey (k : Fin 64) (v : Reg32) (s : State) : State :=
  { s with
    keybuf := memWriteList s.keybuf (4 * k.val) [laneByte v 0, laneByte v 1, laneByte v 2, laneByte v 3]
    keyValid := false }

/-- What a write of v to a register changes (spec/10_state.md R23 to R41). Writes to read-only registers
change nothing (spec/20_memory.md R65); writes to CONFIG, CMD, DIN, OPA, OPB and KEY are dropped while the
engine is BUSY (spec/70_reset_and_hazards.md R297). `completed` says that a command completes in this
cycle (spec/60_exceptions.md R263). -/
def State.writeReg (completed : Bool) (r : Reg) (v : Reg32) (s : State) : State :=
  match r with
  | .id => s
  | .config => s.whenIdle (State.setConfig v)
  | .cmd => s.whenIdle (State.accept v)
  | .status => s.writeStatus completed v
  | .irqEn => s.setIrqEn v
  | .din k => s.whenIdle (State.setDin k v)
  | .dout _ => s
  | .opa k => s.whenIdle (State.setOpa k v)
  | .opb k => s.whenIdle (State.setOpb k v)
  | .res _ => s
  | .pconst _ => s
  | .qconst _ => s
  | .key k => s.whenIdle (State.setKey k v)
  | .swin _ _ => s

/-- An access the core refuses: bus_resp = 1, and a read returns any value; no other change and no WBUSY
(spec/20_memory.md R63, R64, spec/60_exceptions.md R261). -/
def State.refuseAccess (a : Access) (s : State) : State :=
  if a.write then s.respond .error none else s.respondFree .error

/-- One host transaction, one atomic step (spec/20_memory.md R61). -/
def State.access (completed : Bool) (a : Access) (s : State) : State :=
  match accessTarget a with
  | none => s.refuseAccess a
  | some r => if a.write then (s.writeReg completed r a.wdata).respond .ok none else s.readReg r

end Sys2Proof.Machine
end

