-- ==== Sys2Proof/Machine/Control.lean ====
section
/-! DEFINITION. The control commands: NOP and the illegal command words (spec/44_control.md R230, R231). -/

namespace Sys2Proof.Machine

/-- NOP: do nothing and complete; it does not check CONFIG.WSEL (spec/44_control.md R230). -/
def execNop (s : State) : Host.Outcome State Fault Refusal := .next (s.complete .none)

/-- An illegal command word: its body is `raise IllegalCommand` (spec/44_control.md R231). -/
def execIllegal (s : State) : Host.Outcome State Fault Refusal := .next (s.raise .illegalCommand)

end Sys2Proof.Machine
end

