-- ==== Sys2Proof/Machine/KeySchedule.lean ====
section
/-! DEFINITION. The key scheduler (spec/42_key_schedule.md R170 to R177): pack, sinit, mix, and KS. -/

namespace Sys2Proof.Machine

/-- One packing step: L[k / u] <- rotl_w(L[k / u], 8) +w zext_w(KEYBUF[k]) (spec/42_key_schedule.md R172). -/
def packByte {w : Nat} (u : Nat) (key : Nat → Byte) (k : Nat) (ls : List (BitVec w)) : List (BitVec w) :=
  ls.set (k / u) (addW (rotlW (ls.getD (k / u) 0) 8) ((key k).setWidth w))

/-- The packing loop over k in n−1 downto 0 (spec/42_key_schedule.md R172). -/
def packLoop {w : Nat} (u : Nat) (key : Nat → Byte) : Nat → List (BitVec w) → List (BitVec w)
  | 0, ls => ls
  | k + 1, ls => packLoop u key k (packByte u key k ls)

/-- pack: c zero words, then the key bytes from the last index to the first (spec/42_key_schedule.md
R172). -/
def pack (w : Width) (b : Nat) (key : Nat → Byte) : List (Word w) :=
  packLoop w.bytes key b (List.replicate (keyWordCount w.bytes b) 0)

/-- n subkeys from `x` on, each the one before +w q (spec/42_key_schedule.md R174). -/
def sinitFrom {w : Nat} (q : BitVec w) : Nat → BitVec w → List (BitVec w)
  | 0, _ => []
  | n + 1, x => x :: sinitFrom q n (addW x q)

/-- sinit: S[0] = P_w, S[i] = S[i−1] +w Q_w, for t entries (spec/42_key_schedule.md R174,
spec/90_conflicts.md C9). -/
def sinit (w : Width) (t : Nat) : List (Word w) := sinitFrom (constQ w) t (constP w)

/-- The state of the mixing loop: S, L, the accumulators A and B, and the indexes i and j
(spec/42_key_schedule.md R175; hidden state, spec/10_state.md R43). -/
structure MixState (w : Nat) where
  s : List (BitVec w)
  l : List (BitVec w)
  a : BitVec w
  b : BitVec w
  i : Nat
  j : Nat
  deriving DecidableEq, Repr

/-- One iteration of the mixing loop (spec/42_key_schedule.md R175). The B step uses the A just computed,
in the sum and in the rotation amount. -/
def mixStep {w : Nat} (m : MixState w) : MixState w :=
  let a := rotlW (addW (addW (m.s.getD m.i 0) m.a) m.b) 3
  let b := rotlW (addW (addW (m.l.getD m.j 0) a) m.b) ((addW a m.b).toNat % w)
  { s := m.s.set m.i a
    l := m.l.set m.j b
    a := a
    b := b
    i := (m.i + 1) % m.s.length
    j := (m.j + 1) % m.l.length }

/-- n iterations of the mixing loop. -/
def mixLoop {w : Nat} : Nat → MixState w → MixState w
  | 0, m => m
  | n + 1, m => mixLoop n (mixStep m)

/-- mix: 3 · max(t, c) iterations from A = B = 0, i = j = 0 (spec/42_key_schedule.md R175, R176). The
lists' lengths are t and c. -/
def mix {w : Nat} (ls ss : List (BitVec w)) : MixState w :=
  mixLoop (3 * max ss.length ls.length) { s := ss, l := ls, a := 0, b := 0, i := 0, j := 0 }

/-- `mix(pack(key[0..b−1]), sinit())`: S[0..t−1] and L[0..c−1] after a KS (spec/42_key_schedule.md R177,
R179). -/
def keySchedule (w : Width) (r b : Nat) (key : Nat → Byte) : MixState w.bits :=
  mix (pack w b key) (sinit w (subkeyCount r))

/-- KS: derive the expanded key; the checks in the order of R171 (spec/42_key_schedule.md R177). KEY_VALID
was cleared at acceptance (spec/44_control.md R232). -/
def execKs (s : State) : Host.Outcome State Fault Refusal :=
  match s.width with
  | none => .next (s.raise .invalidWordSize)
  | some w =>
    if 256 < s.keyLen then .next (s.raise .invalidKeySize)
    else if 255 < s.rounds then .next (s.raise .invalidRoundsCount)
    else
      let m := keySchedule w s.rounds s.keyLen s.keyByte
      .next ((s.setSchedule (m.l.map zext128) (m.s.map zext128)).complete .none)

end Sys2Proof.Machine
end

