-- ==== Sys2Proof/Machine/RoundTransform.lean ====
section
/-! DEFINITION. The round-mixing datapath (spec/43_round_transform.md R200 to R206): fwd, inv, ENC, DEC. -/

namespace Sys2Proof.Machine

/-- Round i of the forward transform; the B step reads the new A (spec/43_round_transform.md R200). -/
def fwdRound {w : Nat} (sk : Nat → BitVec w) (i : Nat) (p : BitVec w × BitVec w) : BitVec w × BitVec w :=
  let a := addW (rotlW (xorW p.1 p.2) (p.2.toNat % w)) (sk (2 * i))
  let b := addW (rotlW (xorW p.2 a) (a.toNat % w)) (sk (2 * i + 1))
  (a, b)

/-- Rounds 1 to r of the forward transform, in that order. -/
def fwdRounds {w : Nat} (sk : Nat → BitVec w) : Nat → BitVec w × BitVec w → BitVec w × BitVec w
  | 0, p => p
  | r + 1, p => fwdRound sk (r + 1) (fwdRounds sk r p)

/-- fwd(A, B): pre-whitening with S[0] and S[1], then rounds 1 to r (spec/43_round_transform.md R200). -/
def fwd {w : Nat} (sk : Nat → BitVec w) (r : Nat) (p : BitVec w × BitVec w) : BitVec w × BitVec w :=
  fwdRounds sk r (addW p.1 (sk 0), addW p.2 (sk 1))

/-- Round i of the inverse transform; the A step reads the B just computed (spec/43_round_transform.md
R201, spec/90_conflicts.md C10). -/
def invRound {w : Nat} (sk : Nat → BitVec w) (i : Nat) (p : BitVec w × BitVec w) : BitVec w × BitVec w :=
  let b := xorW (rotrW (subW p.2 (sk (2 * i + 1))) (p.1.toNat % w)) p.1
  let a := xorW (rotrW (subW p.1 (sk (2 * i))) (b.toNat % w)) b
  (a, b)

/-- Rounds r down to 1 of the inverse transform, in that order. -/
def invRounds {w : Nat} (sk : Nat → BitVec w) : Nat → BitVec w × BitVec w → BitVec w × BitVec w
  | 0, p => p
  | r + 1, p => invRounds sk r (invRound sk (r + 1) p)

/-- inv(A, B): rounds r down to 1, then B −w S[1] and A −w S[0] (spec/43_round_transform.md R201). -/
def inv {w : Nat} (sk : Nat → BitVec w) (r : Nat) (p : BitVec w × BitVec w) : BitVec w × BitVec w :=
  let q := invRounds sk r p
  (subW q.1 (sk 0), subW q.2 (sk 1))

/-- The template of ENC and DEC: the checks InvalidWordSize, then NoKeySchedule; the block of DIN through
the transform `f` into DOUT (spec/43_round_transform.md R205, R206). -/
def blockCommand (f : {w : Nat} → (Nat → BitVec w) → Nat → BitVec w × BitVec w → BitVec w × BitVec w)
    (s : State) : State :=
  match s.width with
  | none => s.raise .invalidWordSize
  | some w =>
    if s.keyValid = false then s.raise .noKeySchedule
    else
      let p := f (s.subkey w) s.rounds (s.deserBlock w)
      (s.setDout (serBlock w p.1 p.2)).complete .none

/-- ENC: encrypt the block in DIN into DOUT (spec/43_round_transform.md R205, R208). -/
def execEnc (s : State) : Host.Outcome State Fault Refusal := .next (blockCommand fwd s)

/-- DEC: decrypt the block in DIN into DOUT (spec/43_round_transform.md R206). -/
def execDec (s : State) : Host.Outcome State Fault Refusal := .next (blockCommand inv s)

end Sys2Proof.Machine
end

