-- ==== Sys2Proof/Machine/Serializer.lean ====
section
/-! DEFINITION. The serializer commands (spec/41_serializer.md R156, R157). -/

namespace Sys2Proof.Machine

/-- DESER: load a block's two words from DIN into OPA and OPB (spec/41_serializer.md R156). -/
def execDeser (s : State) : Host.Outcome State Fault Refusal :=
  match s.width with
  | none => .next (s.raise .invalidWordSize)
  | some w =>
    let p := s.deserBlock w
    .next ((s.setOperands (zext128 p.1) (zext128 p.2)).complete .none)

/-- SER: store OPA and OPB as a block into DOUT (spec/41_serializer.md R157). -/
def execSer (s : State) : Host.Outcome State Fault Refusal :=
  match s.width with
  | none => .next (s.raise .invalidWordSize)
  | some w => .next ((s.setDout (serBlock w (s.operandA w) (s.operandB w))).complete .none)

end Sys2Proof.Machine
end

