-- ==== Sys2Proof/Machine/WordAlu.lean ====
section
/-! DEFINITION. The ALU commands (spec/40_word_alu.md R128 to R133). -/

namespace Sys2Proof.Machine

/-- The template `alu(op_w)`: RES <- zext_128(op_w(OPA[w−1:0], OPB[w−1:0])) (spec/40_word_alu.md R128). -/
def aluCommand (op : {w : Nat} → BitVec w → BitVec w → BitVec w) (s : State) : State :=
  match s.width with
  | none => s.raise .invalidWordSize
  | some w => (s.setRes (zext128 (op (s.operandA w) (s.operandB w)))).complete .none

/-- ADD: wrapping addition (spec/40_word_alu.md R129). -/
def execAdd (s : State) : Host.Outcome State Fault Refusal := .next (aluCommand addW s)

/-- SUB: wrapping subtraction, OPA minus OPB (spec/40_word_alu.md R130). -/
def execSub (s : State) : Host.Outcome State Fault Refusal := .next (aluCommand subW s)

/-- XOR: bitwise exclusive or (spec/40_word_alu.md R131). -/
def execXor (s : State) : Host.Outcome State Fault Refusal := .next (aluCommand xorW s)

/-- ROTL: rotate OPA left by OPB mod w (spec/40_word_alu.md R132). -/
def execRotl (s : State) : Host.Outcome State Fault Refusal :=
  .next (aluCommand (fun a b => rotlW a b.toNat) s)

/-- ROTR: rotate OPA right by OPB mod w (spec/40_word_alu.md R133). -/
def execRotr (s : State) : Host.Outcome State Fault Refusal :=
  .next (aluCommand (fun a b => rotrW a b.toNat) s)

end Sys2Proof.Machine
end

