-- ==== Sys2Proof/Machine/Clock.lean ====
section
/-! DEFINITION. One rising edge of clk (spec/20_memory.md R60): reset before everything else in its cycle,
else the completion if the running command ends here, then the transaction (spec/60_exceptions.md R263). -/

namespace Sys2Proof.Machine

/-- What the host drives in the coming cycle: nothing when its list is at its end. -/
def State.nextInput (s : State) : CycleInput := s.pins.headD CycleInput.quiet

/-- The start of a cycle: its input is taken off the list, and the bus shows no response yet. -/
def State.beginCycle (s : State) : State := { s with pins := s.pins.tail, response := none }

/-- An access made while rst = 1: no effect; the response and the data are any values
(spec/70_reset_and_hazards.md R292). -/
def State.accessInReset (a : Access) (s : State) : State :=
  { s with
    response := some
      { resp := if Config.freeResp s.draws then .error else .ok
        rdata := if a.write then none else some (Config.freeValue s.draws) }
    draws := s.draws + 1 }

/-- A rising edge with rst = 1: the reset state, whatever the core was doing; a running command is aborted
(spec/70_reset_and_hazards.md R290). KEYBUF, S and L become unspecified (R291). -/
def State.resetEdge (s : State) : State :=
  { State.reset with pins := s.pins, draws := s.draws, resets := s.resets + 1 }

/-- A whole cycle with rst = 1. -/
def State.resetCycle (inp : CycleInput) (s : State) : State :=
  match inp.access with
  | none => s.resetEdge
  | some a => s.resetEdge.accessInReset a

/-- Whether a command completes at this edge. -/
def State.completesNow (s : State) : Bool :=
  match s.engine with
  | .idle => false
  | .busy _ n => n == 0

/-- The body of a command word: that of the instruction it decodes to, or `raise IllegalCommand`
(spec/44_control.md R231, R233). -/
def execWord (v : Reg32) (s : State) : Host.Outcome State Fault Refusal :=
  match decode v with
  | .ok i => exec i s
  | .error _ => execIllegal s

/-- The engine at a rising edge: idle, or one cycle nearer the end of its command, or the completion step
(spec/44_control.md R233, R235). -/
def engineEdge (s : State) : Host.Outcome State Fault Refusal :=
  match s.engine with
  | .idle => .next s
  | .busy v (n + 1) => .next (s.runOn v n)
  | .busy v 0 => execWord v s

/-- The bus at a rising edge, after the engine. -/
def State.busEdge (completed : Bool) (inp : CycleInput) (s : State) : State :=
  match inp.access with
  | none => s
  | some a => s.access completed a

/-- The cycle of an input with rst = 0, on the state at its start. -/
def runCycle (inp : CycleInput) (s : State) : Host.Outcome State Fault Refusal :=
  match engineEdge s with
  | .next t => .next (t.busEdge s.completesNow inp)
  | .fault e => .fault e
  | .refused r => .refused r

/-- One clock cycle. -/
def clockCycle (inp : CycleInput) (s : State) : Host.Outcome State Fault Refusal :=
  if inp.rst then .next (s.resetCycle inp) else runCycle inp s

/-- The state whose next cycle completes command word v: the command accepted, no cycle of it left but its
last, and nothing driven by the host in that cycle (log entry 10). -/
def State.withCommand (v : Reg32) (s : State) : State :=
  { s.acceptFor 0 v with pins := CycleInput.quiet :: s.pins }

end Sys2Proof.Machine
end

