-- ==== Sys2Proof/Machine/Step.lean ====
section
/-! DEFINITION. One step: one clock cycle with the host's next input. -/

namespace Sys2Proof.Machine

/-- One rising edge of clk, with the input the host drives in that cycle. -/
def step (s : State) : Host.Outcome State Fault Refusal := clockCycle s.nextInput s.beginCycle

/-- The state in which the very next step runs the command word `w`: the core fetches nothing
(spec/10_state.md R22), so the word is placed where a CMD write leaves it, in the engine (log entry 10). -/
def State.withFetchWord (s : State) (nbits w : Nat) : State := s.withCommand (tableWord nbits w)

end Sys2Proof.Machine
end

