-- ==== Sys2Proof/Machine/HostProgram.lean ====
section
/-! DEFINITION. The host program notation (spec/30_encoding.md R101, R102), as what the host drives on the
pins, and the platform's address decode (spec/20_memory.md R60). Host software, outside the core
(spec/00_scope.md R6; log entry 7). -/

namespace Sys2Proof.Machine

/-- `W32 off, v`: one 32-bit write of v to the register at `off`. -/
def w32 (off : BitVec 14) (v : Reg32) : CycleInput :=
  { rst := false, access := some { addr := off, write := true, size := 2, wdata := v } }

/-- `R32 off`: one 32-bit read of the register at `off`. -/
def r32 (off : BitVec 14) : CycleInput :=
  { rst := false, access := some { addr := off, write := false, size := 2, wdata := 0 } }

/-- `CMD m`: `W32 CMD, op(m)`. -/
def cmdInput (i : Instr) : CycleInput := w32 (regOffset .cmd) (encode i)

/-- WSEL(16, 32, 64, 128) = 0, 1, 2, 3. -/
def wselOfWidth : Width → Nat
  | .w16 => 0
  | .w32 => 1
  | .w64 => 2
  | .w128 => 3

/-- The value of `SETCFG w, r, b`: WSEL(w) · 2^0 + r · 2^8 + b · 2^20. -/
def configWord (c : ConfigArgs) : Reg32 :=
  BitVec.ofNat 32 (wselOfWidth c.width + c.rounds * 2 ^ 8 + c.keyLen * 2 ^ 20)

/-- `SETCFG w, r, b`. -/
def setCfgInput (c : ConfigArgs) : CycleInput := w32 (regOffset .config) (configWord c)

/-- The 32-bit values of the byte sequence `bs`, four bytes a value, least significant first, missing bytes
0: Σ_m bs(4n+m) · 2^(8m). -/
def packLanes : List Byte → List Reg32
  | b0 :: b1 :: b2 :: b3 :: bs => laneReg b0 b1 b2 b3 :: packLanes bs
  | [b0, b1, b2] => [laneReg b0 b1 b2 0]
  | [b0, b1] => [laneReg b0 b1 0 0]
  | [b0] => [laneReg b0 0 0 0]
  | [] => []

/-- Writes of the values of a list to the registers at `off`, `off + 4`, ... -/
def writeRun : BitVec 14 → List Reg32 → List CycleInput
  | _, [] => []
  | off, v :: vs => w32 off v :: writeRun (off + 4) vs

/-- `LOADKEY k0 k1 ... kb−1`. -/
def loadKeyInputs (key : List Byte) : List CycleInput := writeRun (regOffset (.key 0)) (packLanes key)

/-- `LOADBLK d0 ... d(2u−1)`. -/
def loadBlkInputs (blk : List Byte) : List CycleInput := writeRun (regOffset (.din 0)) (packLanes blk)

/-- `READBLK n`: reads of DOUT0 to DOUT(n−1). -/
def readBlkInputs (n : Nat) : List CycleInput :=
  (List.range n).map fun k => r32 (BitVec.ofNat 14 (0x040 + 4 * k))

/-- `ACK`: `W32 STATUS, 0x0000000A`: clear DONE and WBUSY. -/
def ackInput : CycleInput := w32 (regOffset .status) 0x0000000A

/-- One poll of `WAIT`: `R32 STATUS`; the host repeats it until STATUS.BUSY = 0. -/
def pollInput : CycleInput := r32 (regOffset .status)

/-- The offset a platform address selects: "The platform decodes BASE and presents only accesses inside the
window to the core" (spec/20_memory.md R60; log entry 6). -/
def windowOffset (addr : Nat) : Option (BitVec 14) :=
  if Config.base ≤ addr ∧ addr < Config.base + 0x4000 then some (BitVec.ofNat 14 (addr - Config.base)) else none

/-- What the core sees of a platform access to `addr`: nothing if the address is outside the window. -/
def platformInput (addr : Nat) (write : Bool) (size : BitVec 2) (wdata : Reg32) : CycleInput :=
  { rst := false
    access := (windowOffset addr).map fun off => { addr := off, write := write, size := size, wdata := wdata } }

end Sys2Proof.Machine
end

