-- ==== Sys2Proof/Machine/Driver.lean ====
section
/-! DEFINITION. The host reference driver ENCODE and DECODE (spec/45_block_codec_driver.md R240 to R246), over
the core's register accesses. Host software, outside the core (spec/00_scope.md R6; log entry 7). -/

namespace Sys2Proof.Machine

/-- One transaction of the driver, which owns the core (spec/45_block_codec_driver.md R240): its effect
alone, in a cycle without a completion. -/
def driverInput (inp : CycleInput) (s : State) : State := s.busEdge false inp

/-- Transactions in order. -/
def driverInputs : List CycleInput → State → State
  | [], s => s
  | inp :: rest, s => driverInputs rest (driverInput inp s)

/-- `WAIT`: poll until STATUS.BUSY = 0, that is, until the running command has completed. Its polls change
nothing but the latest response (spec/20_memory.md R70). -/
def driverWait (s : State) : State :=
  match s.engine with
  | .idle => s
  | .busy v _ =>
    match execWord v s with
    | .next t => t
    | .fault _ => s
    | .refused _ => s

/-- The data of the latest read. -/
def State.readData (s : State) : Reg32 := (s.response.bind fun r => r.rdata).getD 0

/-- `CMD m; WAIT; R32 STATUS => s`: the state after them, and s[7:4]. -/
def driverCommand (i : Instr) (s : State) : State × BitVec 4 :=
  let t := driverInput pollInput (driverWait (driverInput (cmdInput i) s))
  (t, t.readData.extractLsb' 4 4)

/-- `READBLK n`: the bytes of DOUT0 to DOUT(n−1), in order. -/
def driverReadBlk : Nat → Nat → State → State × List Byte
  | 0, _, s => (s, [])
  | n + 1, k, s =>
    let t := driverInput (r32 (BitVec.ofNat 14 (0x040 + 4 * k))) s
    let v := t.readData
    let rest := driverReadBlk n (k + 1) t
    (rest.1, laneByte v 0 :: laneByte v 1 :: laneByte v 2 :: laneByte v 3 :: rest.2)

/-- What a driver call returns: a byte sequence, or the code of an error kind. -/
abbrev DriverResult := Except (BitVec 4) (List Byte)

/-- The driver's loop over `n` blocks: LOADBLK, the command, READBLK, and the output so far
(spec/45_block_codec_driver.md R241). -/
def driverBlocks (i : Instr) (u : Nat) : Nat → List Byte → List Byte → State → State × DriverResult
  | 0, _, out, s => (s, .ok out)
  | n + 1, inp, out, s =>
    let c := driverCommand i (driverInputs (loadBlkInputs (inp.take (2 * u))) s)
    if c.2 ≠ 0 then (c.1, .error c.2)
    else
      let rd := driverReadBlk ((2 * u + 3) / 4) 0 c.1
      driverBlocks i u n (inp.drop (2 * u)) (out ++ rd.2.take (2 * u)) rd.1

/-- The common body of ENCODE and DECODE: validation in the order buffer length, key size, rounds, before any
core access (spec/45_block_codec_driver.md R243); then one KS, then one command a block (R241, R242). -/
def driverCall (i : Instr) (lengthError : ErrorKind) (key inp : List Byte) (r : Nat) (w : Width) (s : State) :
    State × DriverResult :=
  if inp.length % (2 * w.bytes) ≠ 0 then (s, .error (errorCode lengthError))
  else if 256 < key.length then (s, .error (errorCode .invalidKeySize))
  else if 255 < r then (s, .error (errorCode .invalidRoundsCount))
  else if inp.length = 0 then (s, .ok [])
  else
    let loaded := driverInputs (loadKeyInputs key)
      (driverInput (setCfgInput { width := w, rounds := r, keyLen := key.length }) s)
    let c := driverCommand .ks loaded
    if c.2 ≠ 0 then (c.1, .error c.2)
    else driverBlocks i w.bytes (inp.length / (2 * w.bytes)) inp [] c.1

/-- `ENCODE(key, pt, r, w)` (spec/45_block_codec_driver.md R241). -/
def driverEncode (key pt : List Byte) (r : Nat) (w : Width) (s : State) : State × DriverResult :=
  driverCall .enc .invalidPlaintextLength key pt r w s

/-- `DECODE(key, ct, r, w)` (spec/45_block_codec_driver.md R242). -/
def driverDecode (key ct : List Byte) (r : Nat) (w : Width) (s : State) : State × DriverResult :=
  driverCall .dec .invalidCipherTextLength key ct r w s

end Sys2Proof.Machine
end

