-- ==== Sys2Proof/Safety.lean ====
section
/-! DEFINITION. The terms in which claims about the core are stated: runs, the invariant of every reachable
state, and what it means that the key schedule is current. -/

namespace Sys2Proof.Machine

/-- k steps, each of which answers a next state. -/
def stepsTo : Nat → State → State → Prop
  | 0, s, t => s = t
  | k + 1, s, t => ∃ m, step s = .next m ∧ stepsTo k m t

/-- The host writes `v` to register `r`: a 32-bit aligned write. -/
def hostWrite (r : Reg) (v : Reg32) : Access := { addr := regOffset r, write := true, size := 2, wdata := v }

/-- The host reads register `r`: a 32-bit aligned read. -/
def hostRead (r : Reg) : Access := { addr := regOffset r, write := false, size := 2, wdata := 0 }

/-- The registers whose writes a busy engine drops: CONFIG, CMD, DIN, OPA, OPB, KEY
(spec/70_reset_and_hazards.md R297). -/
def Reg.isInput (r : Reg) : Prop :=
  r = .config ∨ r = .cmd ∨ (∃ k, r = .din k) ∨ (∃ k, r = .opa k) ∨ (∃ k, r = .opb k) ∨ ∃ k, r = .key k

/-- The read-only registers (spec/20_memory.md R65). -/
def Reg.isReadOnly (r : Reg) : Prop :=
  r = .id ∨ (∃ k, r = .dout k) ∨ (∃ k, r = .res k) ∨ (∃ k, r = .pconst k) ∨ (∃ k, r = .qconst k) ∨
    ∃ i q, r = .swin i q

/-- The registers whose reads are open while the engine is busy: DOUT, RES, OPA, OPB and SWIN
(spec/70_reset_and_hazards.md R296). -/
def Reg.isOpen (r : Reg) : Prop :=
  (∃ k, r = .dout k) ∨ (∃ k, r = .res k) ∨ (∃ k, r = .opa k) ∨ (∃ k, r = .opb k) ∨ ∃ i q, r = .swin i q

/-- An offset of the ranges the register map marks reserved, as byte ranges (spec/20_memory.md R64). -/
def offsetReserved (n : Nat) : Prop :=
  (0x014 ≤ n ∧ n ≤ 0x01F) ∨ (0x0B0 ≤ n ∧ n ≤ 0x0FF) ∨ (0x200 ≤ n ∧ n ≤ 0xFFF) ∨ 0x3000 ≤ n

/-- Byte k of a word. -/
def wordByte {w : Nat} (x : BitVec w) (k : Nat) : Byte := x.extractLsb' (8 * k) 8

/-- The values of A and B of the forward transform from (a, b) on: `A i` and `B i` after round i
(spec/43_round_transform.md R200). -/
structure FwdTrace {w : Nat} (sk : Nat → BitVec w) (r : Nat) (a b : BitVec w) (A B : Nat → BitVec w) : Prop where
  a_start : A 0 = a + sk 0
  b_start : B 0 = b + sk 1
  a_round : ∀ i < r, A (i + 1) = (A i ^^^ B i).rotateLeft ((B i).toNat % w) + sk (2 * (i + 1))
  b_round : ∀ i < r,
    B (i + 1) = (B i ^^^ A (i + 1)).rotateLeft ((A (i + 1)).toNat % w) + sk (2 * (i + 1) + 1)

/-- The values of A and B of the inverse transform from (a, b) on: `A i` and `B i` when the rounds r down to
i + 1 are done (spec/43_round_transform.md R201). -/
structure InvTrace {w : Nat} (sk : Nat → BitVec w) (r : Nat) (a b : BitVec w) (A B : Nat → BitVec w) : Prop where
  a_start : A r = a
  b_start : B r = b
  b_round : ∀ i < r, B i = (B (i + 1) - sk (2 * (i + 1) + 1)).rotateRight ((A (i + 1)).toNat % w) ^^^ A (i + 1)
  a_round : ∀ i < r, A i = (A (i + 1) - sk (2 * (i + 1))).rotateRight ((B i).toNat % w) ^^^ B i

/-- The values of the n iterations of the mixing loop over t subkeys and c key words: `S k i`, `L k j`, `A k`
and `B k` before iteration k (spec/42_key_schedule.md R175). -/
structure MixTrace {w : Nat} (t c n : Nat) (S L : Nat → Nat → BitVec w) (A B : Nat → BitVec w) : Prop where
  a_start : A 0 = 0
  b_start : B 0 = 0
  a_step : ∀ k < n, A (k + 1) = (S k (k % t) + A k + B k).rotateLeft 3
  b_step : ∀ k < n,
    B (k + 1) = (L k (k % c) + A (k + 1) + B k).rotateLeft ((A (k + 1) + B k).toNat % w)
  s_step : ∀ k < n, ∀ i, S (k + 1) i = if i = k % t then A (k + 1) else S k i
  l_step : ∀ k < n, ∀ j, L (k + 1) j = if j = k % c then B (k + 1) else L k j

/-- S[0..t−1] is the expanded key of the current CONFIG and KEYBUF (spec/42_key_schedule.md R179), each entry
zero-extended (spec/10_state.md R41), and CONFIG's fields are legal. -/
def State.scheduleCurrent (s : State) : Prop :=
  ∃ w, s.width = some w ∧ s.keyLen ≤ 256 ∧ s.rounds ≤ 255 ∧
    ∀ i < subkeyCount s.rounds,
      memLookup s.subkeys i =
        ((keySchedule w s.rounds s.keyLen s.keyByte).s[i]?).map zext128

/-- What holds of every reachable state. -/
structure State.Inv (s : State) : Prop where
  /-- KEYBUF is in canonical form, with indexes below 256 (spec/10_state.md R40) -/
  keybuf_wf : Memory.wf 256 s.keybuf
  /-- S is in canonical form, with indexes below 512 (spec/10_state.md R41) -/
  subkeys_wf : Memory.wf 512 s.subkeys
  /-- L is in canonical form, with at most 128 words (spec/42_key_schedule.md R176) -/
  keyWords_wf : Memory.wf 128 s.keyWords
  /-- CONFIG's reserved bits read 0 (spec/10_state.md R25) -/
  config_reserved : s.config &&& 0x1FF1FF07#32 = s.config
  /-- IRQ_EN's reserved bits read 0 (spec/10_state.md R34) -/
  irqEn_reserved : s.irqEn &&& 0x00000001#32 = s.irqEn
  /-- STATUS.ERR holds only codes the core raises (spec/60_exceptions.md R251) -/
  err_raised : s.err = 0x0 ∨ s.err = 0x5 ∨ s.err = 0x6 ∨ s.err = 0x7 ∨ s.err = 0x8 ∨ s.err = 0x9
  /-- DONE is 0 while BUSY is 1 (spec/44_control.md R232, R233) -/
  busy_not_done : s.busy = true → s.done = false
  /-- KEY_VALID is 0 while a KS runs (spec/44_control.md R232) -/
  ks_not_valid : ∀ v n, s.engine = .busy v n → wordIsKs v = true → s.keyValid = false
  /-- KEY_VALID = 1 says what S holds (spec/42_key_schedule.md R179) -/
  key_valid_current : s.keyValid = true → s.scheduleCurrent

end Sys2Proof.Machine
end

