-- ==== Sys2Proof/Certificates/Slice0/Obligations.lean ====
section
/-! DEFINITION. The statements for the provers. Where a statement speaks of one transaction it uses
`State.access`, the bus's edge of a clock cycle; `Obligations.StepIsOneClockCycle` says how a step uses it. -/

open Sys2Proof Sys2Proof.Machine

/-! ## Encoding -/

/-- spec/30_encoding.md R96: the opcode map, word by word, with the five reserved opcodes and two words whose
RSVD is not 0. -/
def Obligations.TableWordsDecode : Prop :=
  decodeTableWord 32 0x00000000 = some .nop ∧ decodeTableWord 32 0x00000001 = some .ks ∧
  decodeTableWord 32 0x00000002 = some .enc ∧ decodeTableWord 32 0x00000003 = some .dec ∧
  decodeTableWord 32 0x00000004 = some .add ∧ decodeTableWord 32 0x00000005 = some .sub ∧
  decodeTableWord 32 0x00000006 = some .xor ∧ decodeTableWord 32 0x00000007 = some .rotl ∧
  decodeTableWord 32 0x00000008 = some .rotr ∧ decodeTableWord 32 0x00000009 = some .deser ∧
  decodeTableWord 32 0x0000000A = some .ser ∧
  decode 0x0000000B = .error .reservedOpcode ∧ decode 0x0000000C = .error .reservedOpcode ∧
  decode 0x0000000D = .error .reservedOpcode ∧ decode 0x0000000E = .error .reservedOpcode ∧
  decode 0x0000000F = .error .reservedOpcode ∧
  decode 0x00000011 = .error .reservedBits ∧ decode 0x80000002 = .error .reservedBits

/-- spec/30_encoding.md R99: of the 2^32 command words exactly eleven are legal, each the word of one
instruction; R97 and R98 say which kind every other word is; a CMD read returns the word of NOP. -/
def Obligations.ExactlyElevenLegalWords : Prop :=
  (∀ (v : Reg32) (i : Instr), decode v = .ok i ↔ v = encode i) ∧
  (∀ v : Reg32, decode v = .error .reservedBits ↔ 16 ≤ v.toNat) ∧
  (∀ v : Reg32, decode v = .error .reservedOpcode ↔ 11 ≤ v.toNat ∧ v.toNat ≤ 15) ∧
  encode .nop = 0x00000000 ∧
  ∀ (c : Bool) (s : State), (s.access c (hostRead .cmd)).response = some { resp := .ok, rdata := some 0x00000000 }

/-- spec/10_state.md R23: the register map is one to one: every register is found at its own offset and
nowhere else, and an aligned offset holds no register exactly in the reserved ranges of R64. -/
def Obligations.RegisterMapIsOneToOne : Prop :=
  (∀ r : Reg, (regOffset r).toNat % 4 = 0 ∧ regAt (regOffset r) = some r) ∧
  (∀ (off : BitVec 14) (r : Reg), off.toNat % 4 = 0 → (regAt off = some r ↔ off = regOffset r)) ∧
  ∀ off : BitVec 14, off.toNat % 4 = 0 → (regAt off = none ↔ offsetReserved off.toNat)

/-- spec/30_encoding.md R102, spec/10_state.md R25: what SETCFG writes is read back as the width, the round
count and the key length it was given, and the word of a SETCFG has no reserved bit set. -/
def Obligations.SetCfgIsReadBack : Prop :=
  ∀ (s : State) (c : Bool) (a : ConfigArgs), s.engine = .idle → a.encodable = true →
    (s.access c (hostWrite .config (configWord a))).config = configWord a ∧
    (s.access c (hostWrite .config (configWord a))).width = some a.width ∧
    (s.access c (hostWrite .config (configWord a))).rounds = a.rounds ∧
    (s.access c (hostWrite .config (configWord a))).keyLen = a.keyLen

/-! ## Steps -/

/-- What one clock cycle does around the completion of a command: with rst = 0 and a command word that decodes
to i at its last cycle, a step is exec of i at the state of the new cycle (its input taken off the host's list,
no response yet), and then the transaction of that cycle, which is told that a command completed. The state the
host makes for a table word runs exactly exec of its instruction. -/
def Obligations.StepRunsDecodedInstruction : Prop :=
  (∀ (s : State) (v : Reg32) (i : Instr),
    s.nextInput.rst = false → s.engine = .busy v 0 → decode v = .ok i →
      step s = match exec i s.beginCycle with
        | .next t => .next (t.busEdge true s.nextInput)
        | .fault e => .fault e
        | .refused r => .refused r) ∧
  ∀ (s : State) (i : Instr),
    step (s.withFetchWord 32 (encode i).toNat) =
      exec i { s.acceptFor 0 (encode i) with response := none }

/-- spec/60_exceptions.md R250, R267: no step faults or is refused, from any state; and a step is reset, or the
edge of the engine and then the transaction of the cycle, in that order (R263). -/
def Obligations.StepIsOneClockCycle : Prop :=
  ∀ s : State,
    (s.nextInput.rst = true → step s = .next (s.beginCycle.resetCycle s.nextInput)) ∧
    (s.nextInput.rst = false → s.engine = .idle → step s = .next (s.beginCycle.busEdge false s.nextInput)) ∧
    (∀ v n, s.nextInput.rst = false → s.engine = .busy v (n + 1) →
      step s = .next ((s.beginCycle.runOn v n).busEdge false s.nextInput)) ∧
    ∀ v, s.nextInput.rst = false → s.engine = .busy v 0 →
      ∃ t, execWord v s.beginCycle = .next t ∧ t.engine = .idle ∧ t.done = true ∧
        step s = .next (t.busEdge true s.nextInput)

/-- spec/44_control.md R232: the acceptance of a command word, legal or illegal, and its refusal while the engine
is busy (the write is dropped, R297). The number of cycles it will run is open: some n (log entry 3), for which a
value is drawn (log entry 4). -/
def Obligations.CommandIsAccepted : Prop :=
  (∀ (s : State) (c : Bool) (v : Reg32), s.engine = .idle →
    ∃ n, s.access c (hostWrite .cmd v) =
      { s with
        engine := .busy v n
        done := false
        keyValid := if v = 0x00000001#32 then false else s.keyValid
        response := some { resp := .ok, rdata := none }
        draws := s.draws + 1 }) ∧
  ∀ (s : State) (c : Bool) (v v' : Reg32) (n : Nat), s.engine = .busy v' n →
    s.access c (hostWrite .cmd v) =
      { s with wbusy := true, response := some { resp := .ok, rdata := none } }

/-- spec/44_control.md R235: a running command completes after the cycles left to it, whatever the host does
meanwhile, unless reset intervenes; and what it computes from is unchanged until then (spec/20_memory.md R77). That
BUSY holds the number of cycles left is the model's choice (log entry 3). -/
def Obligations.RunningCommandCompletes : Prop :=
  ∀ (n : Nat) (s : State) (v : Reg32), s.engine = .busy v n → (∀ inp ∈ s.pins.take (n + 1), inp.rst = false) →
    ∃ t m, stepsTo n s t ∧ t.engine = .busy v 0 ∧
      t.config = s.config ∧ t.din = s.din ∧ t.opa = s.opa ∧ t.opb = s.opb ∧ t.keybuf = s.keybuf ∧
      t.subkeys = s.subkeys ∧ t.keyValid = s.keyValid ∧ t.resets = s.resets ∧
      execWord v t.beginCycle = .next m ∧ m.engine = .idle ∧ m.done = true ∧
      step t = .next (m.busEdge true t.nextInput)

/-- spec/60_exceptions.md R263: a completion and a transaction in one cycle: the completion comes first. A write of
STATUS leaves DONE = 1; a read of STATUS sees the completed state; a CMD write is accepted; with rst = 1 the
completion does not happen. -/
def Obligations.CompletionComesFirstInItsCycle : Prop :=
  ∀ (s : State) (v x : Reg32) (rest : List CycleInput), s.engine = .busy v 0 →
    (s.pins = { rst := false, access := some (hostWrite .status x) } :: rest →
      ∃ t, step s = .next t ∧ t.done = true ∧ t.busy = false) ∧
    (s.pins = { rst := false, access := some (hostRead .status) } :: rest →
      ∃ t d, step s = .next t ∧ t.response = some { resp := .ok, rdata := some d } ∧
        d.getLsbD 0 = false ∧ d.getLsbD 1 = true ∧ d.extractLsb' 4 4 = t.err) ∧
    (s.pins = { rst := false, access := some (hostWrite .cmd x) } :: rest →
      ∃ t n, step s = .next t ∧ t.engine = .busy x n ∧ t.done = false) ∧
    ∀ a, s.pins = { rst := true, access := a } :: rest →
      ∃ t, step s = .next t ∧ t.engine = .idle ∧ t.done = false ∧ t.err = 0

/-! ## Reset -/

/-- spec/10_state.md R46, spec/70_reset_and_hazards.md R290: the state after a reset edge, whatever the core was
doing and whatever the host drives on the bus in that cycle. What KEYBUF and S hold is unspecified: a value
nothing is known of, for the number of this reset (log entry 5). -/
def Obligations.ResetEntersResetState : Prop :=
  ∀ s : State, s.nextInput.rst = true → ∃ t, step s = .next t ∧
    t.engine = .idle ∧ t.config = 0 ∧ t.status = 0 ∧ t.irqEn = 0 ∧
    (∀ k : Fin 8, t.din[k] = 0 ∧ t.dout[k] = 0) ∧ t.opa = 0 ∧ t.opb = 0 ∧ t.res = 0 ∧
    t.pconst = 0xB7E1 ∧ t.qconst = 0x9E37 ∧ t.regValue .id = 0x52433501 ∧ t.irq = false ∧
    (∀ k, t.keyByte k = Config.keybufContent (s.resets + 1) k) ∧
    (∀ i, t.subkeyEntry i = Config.subkeyContent (s.resets + 1) i) ∧
    t.keyWords = [] ∧ t.pins = s.pins.tail

/-- The invariant holds at reset (the RAMs list nothing there: log entry 5). -/
def Obligations.InvariantHoldsAtReset : Prop := State.reset.Inv

/-- Every step keeps the invariant: the RAMs keep their canonical form, reserved bits stay 0, ERR holds only codes
the core raises, DONE is 0 while BUSY, and KEY_VALID = 1 says that S holds the expanded key of the current CONFIG
and KEYBUF (spec/42_key_schedule.md R179), from every state that meets it. The canonical form is the model's choice
(log entry 5). -/
def Obligations.StepKeepsInvariant : Prop := ∀ s t : State, s.Inv → step s = .next t → t.Inv

/-! ## The commands -/

/-- spec/44_control.md R230. -/
def Obligations.NopCompletes : Prop :=
  encode .nop = 0x00000000 ∧
  ∀ s : State, exec .nop s = .next { s with engine := .idle, done := true, err := 0x0 }

/-- spec/40_word_alu.md R129: RES = (OPA[w−1:0] + OPB[w−1:0]) mod 2^w, zero-extended, and nothing else changes. -/
def Obligations.AddWritesWrappingSum : Prop :=
  encode .add = 0x00000004 ∧
  (∀ s : State, s.wsel ≤ 3 → ∃ t, exec .add s = .next t ∧
    t = { s with engine := .idle, done := true, err := 0x0, res := t.res } ∧
    t.res.toNat = (s.opa.toNat % 2 ^ (16 * 2 ^ s.wsel) + s.opb.toNat % 2 ^ (16 * 2 ^ s.wsel)) %
      2 ^ (16 * 2 ^ s.wsel)) ∧
  ∀ s : State, 3 < s.wsel → exec .add s = .next { s with engine := .idle, done := true, err := 0x6 }

/-- spec/40_word_alu.md R130: RES = (OPA[w−1:0] − OPB[w−1:0]) mod 2^w, zero-extended, and nothing else changes. -/
def Obligations.SubWritesWrappingDifference : Prop :=
  encode .sub = 0x00000005 ∧
  (∀ s : State, s.wsel ≤ 3 → ∃ t, exec .sub s = .next t ∧
    t = { s with engine := .idle, done := true, err := 0x0, res := t.res } ∧
    (t.res.toNat : Int) =
      ((s.opa.toNat % 2 ^ (16 * 2 ^ s.wsel) : Nat) - (s.opb.toNat % 2 ^ (16 * 2 ^ s.wsel) : Nat) : Int) %
        2 ^ (16 * 2 ^ s.wsel)) ∧
  ∀ s : State, 3 < s.wsel → exec .sub s = .next { s with engine := .idle, done := true, err := 0x6 }

/-- spec/40_word_alu.md R131: RES = OPA[w−1:0] ^ OPB[w−1:0], zero-extended, and nothing else changes. -/
def Obligations.XorWritesExclusiveOr : Prop :=
  encode .xor = 0x00000006 ∧
  (∀ s : State, s.wsel ≤ 3 → ∃ t, exec .xor s = .next t ∧
    t = { s with engine := .idle, done := true, err := 0x0, res := t.res } ∧
    ∀ k, t.res.getLsbD k = (decide (k < 16 * 2 ^ s.wsel) && (s.opa.getLsbD k ^^ s.opb.getLsbD k))) ∧
  ∀ s : State, 3 < s.wsel → exec .xor s = .next { s with engine := .idle, done := true, err := 0x6 }

/-- spec/40_word_alu.md R122, R132: bit k of RES is bit (k − m) mod w of OPA, with m = OPB[w−1:0] mod w. -/
def Obligations.RotlMovesEachBitLeft : Prop :=
  encode .rotl = 0x00000007 ∧
  (∀ s : State, s.wsel ≤ 3 → ∃ t, exec .rotl s = .next t ∧
    t = { s with engine := .idle, done := true, err := 0x0, res := t.res } ∧
    ∀ k, t.res.getLsbD k = (decide (k < 16 * 2 ^ s.wsel) &&
      s.opa.getLsbD ((k + 16 * 2 ^ s.wsel - s.opb.toNat % 2 ^ (16 * 2 ^ s.wsel) % (16 * 2 ^ s.wsel)) %
        (16 * 2 ^ s.wsel)))) ∧
  ∀ s : State, 3 < s.wsel → exec .rotl s = .next { s with engine := .idle, done := true, err := 0x6 }

/-- spec/40_word_alu.md R123, R133: bit k of RES is bit (k + m) mod w of OPA, with m = OPB[w−1:0] mod w. -/
def Obligations.RotrMovesEachBitRight : Prop :=
  encode .rotr = 0x00000008 ∧
  (∀ s : State, s.wsel ≤ 3 → ∃ t, exec .rotr s = .next t ∧
    t = { s with engine := .idle, done := true, err := 0x0, res := t.res } ∧
    ∀ k, t.res.getLsbD k = (decide (k < 16 * 2 ^ s.wsel) &&
      s.opa.getLsbD ((k + s.opb.toNat % 2 ^ (16 * 2 ^ s.wsel) % (16 * 2 ^ s.wsel)) % (16 * 2 ^ s.wsel)))) ∧
  ∀ s : State, 3 < s.wsel → exec .rotr s = .next { s with engine := .idle, done := true, err := 0x6 }

/-- spec/41_serializer.md R156: OPA and OPB take the two words of the block, byte by byte, zero-extended. -/
def Obligations.DeserLoadsBlockWords : Prop :=
  encode .deser = 0x00000009 ∧
  (∀ s : State, s.wsel ≤ 3 → ∃ t, exec .deser s = .next t ∧
    t = { s with engine := .idle, done := true, err := 0x0, opa := t.opa, opb := t.opb } ∧
    ∀ k < 16,
      wordByte t.opa k = (if k < 2 * 2 ^ s.wsel then s.dinByte k else 0) ∧
      wordByte t.opb k = (if k < 2 * 2 ^ s.wsel then s.dinByte (2 * 2 ^ s.wsel + k) else 0)) ∧
  ∀ s : State, 3 < s.wsel → exec .deser s = .next { s with engine := .idle, done := true, err := 0x6 }

/-- spec/41_serializer.md R154, R157: DOUT_B takes the bytes of OPA, then those of OPB, then 0. -/
def Obligations.SerStoresBlockBytes : Prop :=
  encode .ser = 0x0000000A ∧
  (∀ s : State, s.wsel ≤ 3 → ∃ t, exec .ser s = .next t ∧
    t = { s with engine := .idle, done := true, err := 0x0, dout := t.dout } ∧
    ∀ n < 32, t.doutByte n =
      (if n < 2 * 2 ^ s.wsel then wordByte s.opa n
       else if n < 2 * (2 * 2 ^ s.wsel) then wordByte s.opb (n - 2 * 2 ^ s.wsel)
       else 0)) ∧
  ∀ s : State, 3 < s.wsel → exec .ser s = .next { s with engine := .idle, done := true, err := 0x6 }

/-- spec/41_serializer.md R158: DESER followed by SER copies the block of DIN to DOUT and clears the rest. -/
def Obligations.DeserThenSerCopiesBlock : Prop :=
  ∀ s : State, s.wsel ≤ 3 → ∃ t u, exec .deser s = .next t ∧ exec .ser t = .next u ∧ u.din = s.din ∧
    ∀ n < 32, u.doutByte n = if n < 2 * (2 * 2 ^ s.wsel) then s.dinByte n else 0

/-- spec/43_round_transform.md R205: ENC runs the forward transform of R200, written out as the sequences of A and
B, on the words of DIN_B, and puts the result into DOUT_B; with its two errors. -/
def Obligations.EncRunsForwardTransform : Prop :=
  encode .enc = 0x00000002 ∧
  (∀ (s : State) (w : Width) (a b : Word w), s.width = some w → s.keyValid = true →
    (∀ k < w.bytes, wordByte a k = s.dinByte k ∧ wordByte b k = s.dinByte (w.bytes + k)) →
    ∃ t A B, exec .enc s = .next t ∧
      t = { s with engine := .idle, done := true, err := 0x0, dout := t.dout } ∧
      FwdTrace (s.subkey w) s.rounds a b A B ∧
      ∀ n < 32, t.doutByte n =
        (if n < w.bytes then wordByte (A s.rounds) n
         else if n < 2 * w.bytes then wordByte (B s.rounds) (n - w.bytes)
         else 0)) ∧
  (∀ s : State, 3 < s.wsel → exec .enc s = .next { s with engine := .idle, done := true, err := 0x6 }) ∧
  ∀ s : State, s.wsel ≤ 3 → s.keyValid = false →
    exec .enc s = .next { s with engine := .idle, done := true, err := 0x8 }

/-- spec/43_round_transform.md R206: DEC runs the inverse transform of R201, written out as the sequences of A and
B, on the words of DIN_B, and puts the result into DOUT_B; with its two errors. -/
def Obligations.DecRunsInverseTransform : Prop :=
  encode .dec = 0x00000003 ∧
  (∀ (s : State) (w : Width) (a b : Word w), s.width = some w → s.keyValid = true →
    (∀ k < w.bytes, wordByte a k = s.dinByte k ∧ wordByte b k = s.dinByte (w.bytes + k)) →
    ∃ t A B, exec .dec s = .next t ∧
      t = { s with engine := .idle, done := true, err := 0x0, dout := t.dout } ∧
      InvTrace (s.subkey w) s.rounds a b A B ∧
      ∀ n < 32, t.doutByte n =
        (if n < w.bytes then wordByte (A 0 - s.subkey w 0) n
         else if n < 2 * w.bytes then wordByte (B 0 - s.subkey w 1) (n - w.bytes)
         else 0)) ∧
  (∀ s : State, 3 < s.wsel → exec .dec s = .next { s with engine := .idle, done := true, err := 0x6 }) ∧
  ∀ s : State, s.wsel ≤ 3 → s.keyValid = false →
    exec .dec s = .next { s with engine := .idle, done := true, err := 0x8 }

/-- spec/43_round_transform.md R202: the two transforms are inverse to each other, for every word width, round
count, subkeys and block. -/
def Obligations.TransformsAreInverse : Prop :=
  ∀ (w : Width) (sk : Nat → Word w) (r : Nat) (p : Word w × Word w),
    inv sk r (fwd sk r p) = p ∧ fwd sk r (inv sk r p) = p

/-- spec/43_round_transform.md R202, R206: through the core itself: after an ENC and the copying of DOUT to DIN, a
DEC brings the block back, and the other way round; at every width, round count and key. -/
def Obligations.DecUndoesEnc : Prop :=
  ∀ s : State, s.wsel ≤ 3 → s.keyValid = true →
    (∃ t u, exec .enc s = .next t ∧ exec .dec { t with din := t.dout } = .next u ∧
      ∀ n < 2 * (2 * 2 ^ s.wsel), u.doutByte n = s.dinByte n) ∧
    ∃ t u, exec .dec s = .next t ∧ exec .enc { t with din := t.dout } = .next u ∧
      ∀ n < 2 * (2 * 2 ^ s.wsel), u.doutByte n = s.dinByte n

/-- spec/42_key_schedule.md R173: after pack, key word j is the little-endian word of the key bytes from j·u on,
those at b or beyond taken as 0. -/
def Obligations.PackIsLittleEndian : Prop :=
  ∀ (w : Width) (b : Nat) (key : Nat → Byte),
    (pack w b key).length = keyWordCount w.bytes b ∧
    ∀ (j m : Nat), m < w.bytes → ∀ x, (pack w b key)[j]? = some x →
      wordByte x m = if j * w.bytes + m < b then key (j * w.bytes + m) else 0

/-- spec/42_key_schedule.md R170: c is max(1, ceil(b/u)), the least count of u-byte words, and at least one, that
holds b bytes. -/
def Obligations.KeyWordCountIsCeiling : Prop :=
  ∀ u b : Nat, 0 < u →
    1 ≤ keyWordCount u b ∧ b ≤ keyWordCount u b * u ∧
    ∀ c, 1 ≤ c → b ≤ c * u → keyWordCount u b ≤ c

/-- spec/42_key_schedule.md R174: S[0] = P_w and S[i] = S[i−1] +w Q_w before mixing, for exactly t entries. -/
def Obligations.SinitFollowsRecurrence : Prop :=
  ∀ (w : Width) (t : Nat),
    (sinit w t).length = t ∧
    ∀ i < t, (sinit w t)[i]? = some (constP w + BitVec.ofNat w.bits i * constQ w)

/-- spec/42_key_schedule.md R175: mix runs 3·max(t, c) iterations of the two-accumulator loop, written out as the
sequences of S, L, A and B. -/
def Obligations.MixFollowsRecurrence : Prop :=
  ∀ (w : Width) (ls ss : List (Word w)), ls ≠ [] → ss ≠ [] →
    ∃ S L A B, MixTrace ss.length ls.length (3 * max ss.length ls.length) S L A B ∧
      (∀ i < ss.length, ss[i]? = some (S 0 i)) ∧ (∀ j < ls.length, ls[j]? = some (L 0 j)) ∧
      (mix ls ss).s.length = ss.length ∧ (mix ls ss).l.length = ls.length ∧
      (∀ i < ss.length, (mix ls ss).s[i]? = some (S (3 * max ss.length ls.length) i)) ∧
      ∀ j < ls.length, (mix ls ss).l[j]? = some (L (3 * max ss.length ls.length) j)

/-- spec/42_key_schedule.md R170 to R177, in closed form: a KS with legal CONFIG writes S[0..t−1] and L[0..c−1]
from the key bytes by R173, R174 and R175, sets KEY_VALID, and changes nothing else; S[t..511] keeps its
contents (spec/10_state.md R41). That L stands in the state is the model's choice (log entry 8). -/
def Obligations.KsDerivesExpandedKey : Prop :=
  ∀ (s : State) (w : Width), s.width = some w → s.keyLen ≤ 256 → s.rounds ≤ 255 →
    ∃ t S L A B, exec .ks s = .next t ∧
      t = { s with engine := .idle, done := true, err := 0x0, keyValid := true, subkeys := t.subkeys,
                   keyWords := t.keyWords } ∧
      MixTrace (2 * (s.rounds + 1)) (keyWordCount w.bytes s.keyLen)
        (3 * max (2 * (s.rounds + 1)) (keyWordCount w.bytes s.keyLen)) S L A B ∧
      (∀ i < 2 * (s.rounds + 1), S 0 i = constP w + BitVec.ofNat w.bits i * constQ w) ∧
      (∀ j < keyWordCount w.bytes s.keyLen, ∀ m < w.bytes, wordByte (L 0 j) m =
        if j * w.bytes + m < s.keyLen then s.keyByte (j * w.bytes + m) else 0) ∧
      (∀ i, memLookup t.subkeys i =
        if i < 2 * (s.rounds + 1) then
          some (zext128 (S (3 * max (2 * (s.rounds + 1)) (keyWordCount w.bytes s.keyLen)) i))
        else memLookup s.subkeys i) ∧
      ∀ j, memLookup t.keyWords j =
        if j < keyWordCount w.bytes s.keyLen then
          some (zext128 (L (3 * max (2 * (s.rounds + 1)) (keyWordCount w.bytes s.keyLen)) j))
        else memLookup s.keyWords j

/-- spec/42_key_schedule.md R171, spec/60_exceptions.md R252, R253: the errors of KS in their order; nothing but
STATUS changes. KEYLEN 256 and ROUNDS 255 are accepted, 257 and 256 rejected. -/
def Obligations.KsChecksInOrder : Prop :=
  ∀ s : State,
    (3 < s.wsel → exec .ks s = .next { s with engine := .idle, done := true, err := 0x6 }) ∧
    (s.wsel ≤ 3 → 256 < s.keyLen → exec .ks s = .next { s with engine := .idle, done := true, err := 0x5 }) ∧
    (s.wsel ≤ 3 → s.keyLen ≤ 256 → 255 < s.rounds →
      exec .ks s = .next { s with engine := .idle, done := true, err := 0x7 }) ∧
    (s.wsel ≤ 3 → s.keyLen ≤ 256 → s.rounds ≤ 255 →
      ∃ t, exec .ks s = .next t ∧ t.err = 0x0 ∧ t.keyValid = true)

/-- spec/42_key_schedule.md R177: "The result depends only on w, r, b and KEYBUF[0..b−1]": two states that agree
in them get the same subkeys, whatever else differs, key bytes from b on among it. -/
def Obligations.KsDependsOnlyOnItsInputs : Prop :=
  ∀ s s' t t' : State, s.wsel = s'.wsel → s.rounds = s'.rounds → s.keyLen = s'.keyLen →
    (∀ k < s.keyLen, s.keyByte k = s'.keyByte k) →
    s.wsel ≤ 3 → s.keyLen ≤ 256 → s.rounds ≤ 255 →
    exec .ks s = .next t → exec .ks s' = .next t' →
    ∀ i < 2 * (s.rounds + 1), ∃ x, memLookup t.subkeys i = some x ∧ memLookup t'.subkeys i = some x

/-- spec/20_memory.md R80: no command writes CONFIG, IRQ_EN, WBUSY, DIN or KEYBUF, nor anything of the host's; only
KS writes S, L and KEY_VALID; only ENC, DEC and SER write DOUT; only DESER writes OPA and OPB; only the ALU commands
write RES. Every command ends with the engine idle and DONE set. -/
def Obligations.CommandsWriteOnlyTheirOutputs : Prop :=
  ∀ (i : Instr) (s : State), ∃ t, exec i s = .next t ∧
    t.engine = .idle ∧ t.done = true ∧
    t.config = s.config ∧ t.irqEn = s.irqEn ∧ t.wbusy = s.wbusy ∧ t.din = s.din ∧ t.keybuf = s.keybuf ∧
    t.response = s.response ∧ t.pins = s.pins ∧ t.draws = s.draws ∧ t.resets = s.resets ∧
    (i ≠ .ks → t.subkeys = s.subkeys ∧ t.keyWords = s.keyWords ∧ t.keyValid = s.keyValid) ∧
    (i ≠ .enc → i ≠ .dec → i ≠ .ser → t.dout = s.dout) ∧
    (i ≠ .deser → t.opa = s.opa ∧ t.opb = s.opb) ∧
    (i ≠ .add → i ≠ .sub → i ≠ .xor → i ≠ .rotl → i ≠ .rotr → t.res = s.res)

/-- spec/60_exceptions.md R262: the code a command word reports is the first error that applies, in the order of
the table; 0 if none does. -/
def Obligations.ErrorsFollowPriority : Prop :=
  ∀ (v : Reg32) (s : State), ∃ t, execWord v s = .next t ∧
    t.err =
      (if 0x0000000A < v.toNat then 0x9
       else if v = 0x00000000#32 then 0x0
       else if 3 < s.wsel then 0x6
       else if v = 0x00000001#32 ∧ 256 < s.keyLen then 0x5
       else if v = 0x00000001#32 ∧ 255 < s.rounds then 0x7
       else if (v = 0x00000002#32 ∨ v = 0x00000003#32) ∧ s.keyValid = false then 0x8
       else 0x0 : BitVec 4)

/-- spec/60_exceptions.md R264: a command word that ends with an error writes nothing but ERR, BUSY and DONE. -/
def Obligations.FailingCommandWritesOnlyStatus : Prop :=
  ∀ (v : Reg32) (s t : State), execWord v s = .next t → t.err ≠ 0x0 →
    t = { s with engine := .idle, done := true, err := t.err }

/-- spec/44_control.md R231: an illegal command word is accepted, clearing DONE, and completes with code 0x9, setting
DONE; nothing but STATUS changes (besides the bus response and the draw of its latency, log entries 2 to 4). -/
def Obligations.IllegalWordCompletesWithCodeNine : Prop :=
  ∀ (v : Reg32), 0x0000000A < v.toNat →
    (∀ s : State, execWord v s = .next { s with engine := .idle, done := true, err := 0x9 }) ∧
    ∀ (s : State) (c : Bool), s.engine = .idle → ∃ n,
      s.access c (hostWrite .cmd v) =
        { s with
          engine := .busy v n
          done := false
          response := some { resp := .ok, rdata := none }
          draws := s.draws + 1 }

/-! ## Laws of the primitives -/

/-- spec/40_word_alu.md R124. -/
def Obligations.PrimitivesAreInverse : Prop :=
  ∀ (w : Width) (x y : Word w) (n : Nat),
    rotrW (rotlW x n) n = x ∧ rotlW (rotrW x n) n = x ∧
    rotlW x n = rotrW x ((w.bits - n % w.bits) % w.bits) ∧
    rotlW x 0 = x ∧ rotlW x w.bits = x ∧ rotlW x (w.bits + 1) = rotlW x 1 ∧
    subW (addW x y) y = x ∧ addW (subW x y) y = x ∧ xorW (xorW x y) y = x

/-- spec/41_serializer.md R152: le_w and bytes_w are inverse to each other. -/
def Obligations.WordAndBytesAreInverse : Prop :=
  ∀ w : Width,
    (∀ x : Word w, leWord (wordBytes w.bytes x) = x) ∧
    ∀ bs : List Byte, bs.length = w.bytes → wordBytes w.bytes (leWord bs : Word w) = bs

/-! ## The host interface -/

/-- spec/10_state.md R25, R26: a CONFIG write that lands stores v & 0x1FF1FF07, clears KEY_VALID even if the value is
the one held, and changes nothing else; the three fields are those of the table, and the reserved bits read 0. -/
def Obligations.ConfigWriteStoresFields : Prop :=
  ∀ (s : State) (c : Bool) (v : Reg32), s.engine = .idle →
    s.access c (hostWrite .config v) =
      { s with
        config := v &&& 0x1FF1FF07#32
        keyValid := false
        response := some { resp := .ok, rdata := none } } ∧
    (s.access c (hostWrite .config v)).wsel = v.toNat % 2 ^ 3 ∧
    (s.access c (hostWrite .config v)).rounds = v.toNat / 2 ^ 8 % 2 ^ 9 ∧
    (s.access c (hostWrite .config v)).keyLen = v.toNat / 2 ^ 20 % 2 ^ 9 ∧
    ((s.access c (hostWrite .config v)).access c (hostRead .config)).response =
      some { resp := .ok
             rdata := some (BitVec.ofNat 32 (v.toNat % 2 ^ 3 + v.toNat / 2 ^ 8 % 2 ^ 9 * 2 ^ 8 +
               v.toNat / 2 ^ 20 % 2 ^ 9 * 2 ^ 20)) }

/-- spec/10_state.md R40, spec/20_memory.md R66: a KEY write that lands replaces the four bytes of its register,
little-endian, leaves every other key byte, clears KEY_VALID and changes nothing else. That a byte not written since
reset keeps the value the spec leaves open is the model's choice (log entry 5, DEDUCED). -/
def Obligations.KeyWriteReplacesFourBytes : Prop :=
  ∀ (s : State) (c : Bool) (k : Fin 64) (v : Reg32), s.engine = .idle →
    ∃ t, s.access c (hostWrite (.key k) v) = t ∧
      t = { s with keybuf := t.keybuf, keyValid := false, response := some { resp := .ok, rdata := none } } ∧
      (∀ m < 4, t.keyByte (4 * k.val + m) = v.extractLsb' (8 * m) 8) ∧
      ∀ n, n < 4 * k.val ∨ 4 * k.val + 4 ≤ n → t.keyByte n = s.keyByte n

/-- spec/10_state.md R35, R37, R66, R67: a write that lands in DINk or OPAk or OPBk changes exactly that register's
bytes or bits, and nothing else. -/
def Obligations.OperandWritesChangeOneRegister : Prop :=
  (∀ (s : State) (c : Bool) (k : Fin 8) (v : Reg32), s.engine = .idle →
    ∃ t, s.access c (hostWrite (.din k) v) = t ∧
      t = { s with din := t.din, response := some { resp := .ok, rdata := none } } ∧
      ∀ n < 32, t.dinByte n = if n / 4 = k.val then v.extractLsb' (8 * (n % 4)) 8 else s.dinByte n) ∧
  (∀ (s : State) (c : Bool) (k : Fin 4) (v : Reg32), s.engine = .idle →
    ∃ t, s.access c (hostWrite (.opa k) v) = t ∧
      t = { s with opa := t.opa, response := some { resp := .ok, rdata := none } } ∧
      ∀ n < 128, t.opa.getLsbD n = if n / 32 = k.val then v.getLsbD (n % 32) else s.opa.getLsbD n) ∧
  ∀ (s : State) (c : Bool) (k : Fin 4) (v : Reg32), s.engine = .idle →
    ∃ t, s.access c (hostWrite (.opb k) v) = t ∧
      t = { s with opb := t.opb, response := some { resp := .ok, rdata := none } } ∧
      ∀ n < 128, t.opb.getLsbD n = if n / 32 = k.val then v.getLsbD (n % 32) else s.opb.getLsbD n

/-- spec/20_memory.md R73: a value written to DIN, OPA, OPB or KEY while the engine is idle is the value the next read
of that register returns, and every other register but STATUS then reads as it did before. A KEY or SWIN place not
written since reset gives any value (spec/10_state.md R40, R41, spec/70_reset_and_hazards.md R291); that it reads the
same before and after is the model's choice (log entry 5, DEDUCED from spec/20_memory.md R70). -/
def Obligations.WrittenValueIsReadBack : Prop :=
  ∀ (s : State) (c : Bool) (r : Reg) (v : Reg32), s.engine = .idle →
    ((∃ k, r = .din k) ∨ (∃ k, r = .opa k) ∨ (∃ k, r = .opb k) ∨ ∃ k, r = .key k) →
    ((s.access c (hostWrite r v)).access c (hostRead r)).response = some { resp := .ok, rdata := some v } ∧
    ∀ r', r' ≠ r → r' ≠ .status →
      ((s.access c (hostWrite r v)).access c (hostRead r')).response = (s.access c (hostRead r')).response

/-- spec/70_reset_and_hazards.md R297: while the engine is busy a write to CONFIG, CMD, DIN, OPA, OPB or KEY is dropped
and only sets WBUSY; writes to STATUS and IRQ_EN land; writes to read-only registers and refused accesses do not set
WBUSY. -/
def Obligations.BusyEngineDropsInputWrites : Prop :=
  ∀ (s : State) (c : Bool) (v : Reg32), s.busy = true →
    (∀ r : Reg, r.isInput → s.access c (hostWrite r v) =
      { s with wbusy := true, response := some { resp := .ok, rdata := none } }) ∧
    s.access c (hostWrite .irqEn v) =
      { s with irqEn := v &&& 0x00000001#32, response := some { resp := .ok, rdata := none } } ∧
    s.access false (hostWrite .status v) =
      { s with
        done := s.done && !v.getLsbD 1
        wbusy := s.wbusy && !v.getLsbD 3
        response := some { resp := .ok, rdata := none } } ∧
    (∀ r : Reg, r.isReadOnly → (s.access c (hostWrite r v)).wbusy = s.wbusy) ∧
    ∀ a, accessTarget a = none → (s.access c a).wbusy = s.wbusy

/-- spec/20_memory.md R65: a write to a read-only register is answered with OK and changes nothing, idle or busy. -/
def Obligations.ReadOnlyWritesAreIgnored : Prop :=
  ∀ (s : State) (c : Bool) (r : Reg) (v : Reg32), r.isReadOnly →
    s.access c (hostWrite r v) = { s with response := some { resp := .ok, rdata := none } }

/-- spec/10_state.md R33: a write of STATUS clears DONE by bit 1 and WBUSY by bit 3, independently, and changes nothing
else, busy or not; in the cycle of a completion DONE stays (spec/60_exceptions.md R263). A read shows
{24'b0, ERR, WBUSY, KEY_VALID, DONE, BUSY}. -/
def Obligations.StatusReadsAndClears : Prop :=
  ∀ (s : State) (v : Reg32),
    s.access false (hostWrite .status v) =
      { s with
        done := s.done && !v.getLsbD 1
        wbusy := s.wbusy && !v.getLsbD 3
        response := some { resp := .ok, rdata := none } } ∧
    (s.access true (hostWrite .status v)).done = s.done ∧
    (s.access true (hostWrite .status v)).wbusy = (s.wbusy && !v.getLsbD 3) ∧
    ∀ c, ∃ d, (s.access c (hostRead .status)).response = some { resp := .ok, rdata := some d } ∧
      d.toNat = s.busy.toNat + 2 * s.done.toNat + 4 * s.keyValid.toNat + 8 * s.wbusy.toNat + 16 * s.err.toNat ∧
      (s.busy = true ↔ ∃ v n, s.engine = .busy v n)

/-- spec/20_memory.md R63, R64: an access of another size than 32 bits, a misaligned one, or one in a reserved range
gets the error response and changes no state, and a read of it returns any value, drawn fresh (log entry 4); every
other access is answered with OK. -/
def Obligations.RefusedAccessesChangeNothing : Prop :=
  ∀ (s : State) (c : Bool) (a : Access),
    (a.size ≠ 2 ∨ a.addr.toNat % 4 ≠ 0 ∨ offsetReserved a.addr.toNat →
      (a.write = true → s.access c a = { s with response := some { resp := .error, rdata := none } }) ∧
      (a.write = false → s.access c a =
        { s with
          response := some { resp := .error, rdata := some (Config.freeValue s.draws) }
          draws := s.draws + 1 })) ∧
    (¬(a.size ≠ 2 ∨ a.addr.toNat % 4 ≠ 0 ∨ offsetReserved a.addr.toNat) →
      ∃ d, (s.access c a).response = some { resp := .ok, rdata := d })

/-- spec/20_memory.md R70: a read changes nothing but the response (and the count of values drawn, log entry 4), and
a second read gives the same value, except where spec/70_reset_and_hazards.md R296 gives any value. -/
def Obligations.ReadsHaveNoSideEffect : Prop :=
  ∀ (s : State) (c : Bool) (r : Reg),
    (s.access c (hostRead r) =
      { s with
        response := (s.access c (hostRead r)).response
        draws := (s.access c (hostRead r)).draws }) ∧
    (s.busy = false ∨ ¬r.isOpen →
      ((s.access c (hostRead r)).access c (hostRead r)).response = (s.access c (hostRead r)).response)

/-- spec/70_reset_and_hazards.md R296: while the engine is busy a read of DOUT, RES, OPA, OPB or SWIN gets OK and a value
drawn fresh, of which nothing is known; every other read, and every read while idle, gets the register's value. -/
def Obligations.BusyReadsOfOutputsAreOpen : Prop :=
  ∀ (s : State) (c : Bool) (r : Reg),
    (s.busy = true → r.isOpen → s.access c (hostRead r) =
      { s with
        response := some { resp := .ok, rdata := some (Config.freeValue s.draws) }
        draws := s.draws + 1 }) ∧
    (s.busy = false ∨ ¬r.isOpen → s.access c (hostRead r) =
      { s with response := some { resp := .ok, rdata := some (s.regValue r) } })

/-- spec/10_state.md R24, R36, R38, R41, spec/20_memory.md R67: what the read-only registers show. -/
def Obligations.ReadOnlyRegistersShowState : Prop :=
  ∀ s : State,
    s.regValue .id = 0x52433501 ∧
    (∀ (k : Fin 8) (m : Nat), m < 4 → (s.regValue (.dout k)).extractLsb' (8 * m) 8 = s.doutByte (4 * k.val + m)) ∧
    (∀ (k : Fin 4) (n : Nat), n < 32 → (s.regValue (.res k)).getLsbD n = s.res.getLsbD (32 * k.val + n)) ∧
    (∀ (i : Fin 512) (q : Fin 4) (n : Nat), n < 32 →
      (s.regValue (.swin i q)).getLsbD n = (s.subkeyEntry i.val).getLsbD (32 * q.val + n)) ∧
    ∀ (k : Fin 64) (m : Nat), m < 4 → (s.regValue (.key k)).extractLsb' (8 * m) 8 = s.keyByte (4 * k.val + m)

/-- spec/10_state.md R39, spec/40_word_alu.md R125, R126: PCONST and QCONST show the constants of the width in
CONFIG.WSEL as it stands, busy or idle, and 0 for WSEL 4 to 7. -/
def Obligations.ConstantsFollowConfig : Prop :=
  ∀ (s : State) (c : Bool) (k : Fin 4),
    (s.access c (hostRead (.pconst k))).response = some
      { resp := .ok
        rdata := some (BitVec.extractLsb' (32 * k.val) 32
          (if s.wsel = 0 then 0xB7E1#128
           else if s.wsel = 1 then 0xB7E15163#128
           else if s.wsel = 2 then 0xB7E151628AED2A6B#128
           else if s.wsel = 3 then 0xB7E151628AED2A6ABF7158809CF4F3C7#128
           else 0#128)) } ∧
    (s.access c (hostRead (.qconst k))).response = some
      { resp := .ok
        rdata := some (BitVec.extractLsb' (32 * k.val) 32
          (if s.wsel = 0 then 0x9E37#128
           else if s.wsel = 1 then 0x9E3779B9#128
           else if s.wsel = 2 then 0x9E3779B97F4A7C15#128
           else if s.wsel = 3 then 0x9E3779B97F4A7C15F39CC0605CEDC835#128
           else 0#128)) }

/-- spec/70_reset_and_hazards.md R298: after a CONFIG or KEY write that lands, ENC and DEC fail with NoKeySchedule at
every legal width, and S still shows the old subkeys. -/
def Obligations.LandedKeyWriteMakesScheduleStale : Prop :=
  ∀ (s : State) (c : Bool) (r : Reg) (v : Reg32), s.engine = .idle → (r = .config ∨ ∃ k, r = .key k) →
    (s.access c (hostWrite r v)).wsel ≤ 3 →
    (∃ t, exec .enc (s.access c (hostWrite r v)) = .next t ∧ t.err = 0x8 ∧ t.dout = s.dout ∧
      t.subkeys = s.subkeys) ∧
    ∃ t, exec .dec (s.access c (hostWrite r v)) = .next t ∧ t.err = 0x8 ∧ t.dout = s.dout ∧
      t.subkeys = s.subkeys

/-- spec/10_state.md R36, R38, R41, R32: no transaction, of any size, address or direction, changes DOUT, RES, S, L
or ERR, nor (while the engine is busy) anything a running command reads. (L: log entry 8.) -/
def Obligations.HostCannotDisturbEngine : Prop :=
  ∀ (s : State) (c : Bool) (a : Access),
    (s.access c a).dout = s.dout ∧ (s.access c a).res = s.res ∧ (s.access c a).subkeys = s.subkeys ∧
    (s.access c a).keyWords = s.keyWords ∧ (s.access c a).err = s.err ∧ (s.access c a).resets = s.resets ∧
    (s.busy = true →
      (s.access c a).engine = s.engine ∧ (s.access c a).config = s.config ∧ (s.access c a).din = s.din ∧
      (s.access c a).opa = s.opa ∧ (s.access c a).opb = s.opb ∧ (s.access c a).keybuf = s.keybuf ∧
      (s.access c a).keyValid = s.keyValid)

/-! ## Rules of the whole machine -/

/-- spec/10_state.md R30: KEY_VALID goes from 0 to 1 in a step only when a KS completes with no error in it. -/
def Obligations.KeyValidRisesOnlyByKs : Prop :=
  ∀ s t : State, step s = .next t → s.keyValid = false → t.keyValid = true →
    s.nextInput.rst = false ∧ s.engine = .busy 0x00000001#32 0 ∧ s.wsel ≤ 3 ∧ s.keyLen ≤ 256 ∧ s.rounds ≤ 255 ∧
      t.err = 0x0

/-- spec/10_state.md R32: ERR changes in a step only at a completion or by reset. -/
def Obligations.ErrIsWrittenOnlyAtCompletion : Prop :=
  ∀ s t : State, step s = .next t → t.err ≠ s.err →
    s.nextInput.rst = true ∨ ∃ v, s.engine = .busy v 0

/-- spec/10_state.md R22, R27, R29, spec/70_reset_and_hazards.md R293: the idle engine starts a command in a step only
by a host write of its word to CMD; DONE goes from 0 to 1 in a step only by a completion. -/
def Obligations.CommandsStartByCmdWriteAndEndInDone : Prop :=
  ∀ s t : State, step s = .next t →
    (∀ v n, s.engine = .idle → t.engine = .busy v n →
      ∃ a, s.nextInput = { rst := false, access := some a } ∧ a.write = true ∧ accessTarget a = some .cmd ∧
        a.wdata = v) ∧
    (s.done = false → t.done = true → s.nextInput.rst = false ∧ ∃ v, s.engine = .busy v 0)

/-- spec/10_state.md R31: WBUSY goes from 0 to 1 in a step only when a host write is dropped because a command goes on
running; it goes from 1 to 0 only by a STATUS write with bit 3 set, or by reset. -/
def Obligations.WbusyRecordsDroppedWrites : Prop :=
  ∀ s t : State, step s = .next t →
    (s.wbusy = false → t.wbusy = true →
      ∃ v n a r, s.engine = .busy v (n + 1) ∧ s.nextInput = { rst := false, access := some a } ∧
        a.write = true ∧ accessTarget a = some r ∧ r.isInput) ∧
    (s.wbusy = true → t.wbusy = false →
      s.nextInput.rst = true ∨
      ∃ a, s.nextInput.access = some a ∧ a.write = true ∧ accessTarget a = some .status ∧
        a.wdata.getLsbD 3 = true)

/-- spec/60_exceptions.md R265, R266: irq = DONE & DONE_IE; it rises in a step only by a completion, or by the host
enabling it while DONE is 1. -/
def Obligations.IrqRisesOnlyByCompletionOrEnable : Prop :=
  ∀ s t : State, s.irq = (s.status.getLsbD 1 && s.irqEn.getLsbD 0) ∧
    (step s = .next t → s.irq = false → t.irq = true →
      s.nextInput.rst = false ∧
      ((∃ v, s.engine = .busy v 0) ∨
       (s.done = true ∧ ∃ a, s.nextInput.access = some a ∧ a.write = true ∧
         accessTarget a = some .irqEn ∧ a.wdata.getLsbD 0 = true)))

/-- spec/10_state.md R34, spec/60_exceptions.md R265, R268: a write of IRQ_EN stores bit 0, busy or not, and changes
nothing else; the completion of any command word, in a cycle in which the host drives nothing, raises irq when it is
enabled; the acknowledgement lowers it. -/
def Obligations.InterruptIsEnabledRaisedAndAcknowledged : Prop :=
  (∀ (s : State) (c : Bool) (v : Reg32),
    s.access c (hostWrite .irqEn v) =
      { s with irqEn := v &&& 0x00000001#32, response := some { resp := .ok, rdata := none } } ∧
    ((s.access c (hostWrite .irqEn v)).access c (hostRead .irqEn)).response =
      some { resp := .ok, rdata := some (v &&& 0x00000001#32) }) ∧
  (∀ (s : State) (v : Reg32), s.engine = .busy v 0 → s.nextInput = CycleInput.quiet → s.irqEn.getLsbD 0 = true →
    ∃ t, step s = .next t ∧ t.irq = true) ∧
  (∀ (s : State) (x : Reg32) (rest : List CycleInput), s.engine = .idle →
    s.pins = { rst := false, access := some (hostWrite .status x) } :: rest → x.getLsbD 1 = true →
    ∃ t, step s = .next t ∧ t.irq = false)

/-! ## The host driver -/

/-- spec/45_block_codec_driver.md R245: DECODE(key, ENCODE(key, pt, r, w), r, w) = pt for every width, key of 0 to 256
bytes, r in 0 to 255 and pt of whole blocks, through the core's registers, from any state with an idle engine. A
WAIT stands for the completion it waits for (log entry 7). -/
def Obligations.DriverRoundTrips : Prop :=
  ∀ (key pt : List Byte) (r : Nat) (w : Width) (s : State), s.engine = .idle → key.length ≤ 256 → r ≤ 255 →
    pt.length % (2 * w.bytes) = 0 →
    ∃ s' s'' ct, driverEncode key pt r w s = (s', .ok ct) ∧ ct.length = pt.length ∧
      driverDecode key ct r w s' = (s'', .ok pt)

/-- spec/45_block_codec_driver.md R246: a driver call's result depends only on its arguments, not on the state of the
core it finds (log entry 7). -/
def Obligations.DriverIsPure : Prop :=
  ∀ (key inp : List Byte) (r : Nat) (w : Width) (s s' : State), s.engine = .idle → s'.engine = .idle →
    (driverEncode key inp r w s).2 = (driverEncode key inp r w s').2 ∧
    (driverDecode key inp r w s).2 = (driverDecode key inp r w s').2
end

