-- ==== Sys2Proof/Laws/Memory.lean ====
section
/-! SUPPORT. The laws of the RAMs: what is read after a write, and that every write keeps the canonical
form. -/

namespace Sys2Proof.Machine

variable {α : Type}

@[simp] theorem memLookup_nil (a : Nat) : memLookup ([] : List (Nat × α)) a = none := rfl

/-- A write is read back at its own index, and leaves every other index as it was. -/
theorem memLookup_memWrite (m : List (Nat × α)) (a b : Nat) (x : α) :
    memLookup (memWrite m a x) b = if b = a then some x else memLookup m b := by
  induction m with
  | nil => simp [memWrite, memLookup, eq_comm]
  | cons p m ih =>
    obtain ⟨k, v⟩ := p
    simp only [memWrite]
    split
    · simp only [memLookup, eq_comm (a := a)]
    · split
      · rename_i h; subst h
        simp only [memLookup, eq_comm (a := a)]
        split <;> rfl
      · rename_i h
        simp only [memLookup, ih]
        by_cases hb : b = a
        · subst hb; simp [Ne.symm h]
        · simp [hb]

/-- Writing a list: its values in order from `a` on, every other index as it was. -/
theorem memLookup_memWriteList (xs : List α) (m : List (Nat × α)) (a b : Nat) :
    memLookup (memWriteList m a xs) b =
      if a ≤ b ∧ b < a + xs.length then xs[b - a]? else memLookup m b := by
  induction xs generalizing m a with
  | nil => simp [memWriteList]
  | cons x xs ih =>
    simp only [memWriteList, ih, memLookup_memWrite, List.length_cons]
    by_cases h1 : b = a
    · subst h1; simp
    · by_cases h2 : a + 1 ≤ b ∧ b < a + 1 + xs.length
      · have h3 : a ≤ b ∧ b < a + (xs.length + 1) := by omega
        have h4 : b - a = (b - (a + 1)) + 1 := by omega
        simp only [h2, h3, and_self, if_true]
        rw [h4, List.getElem?_cons_succ]
      · have h3 : ¬ (a ≤ b ∧ b < a + (xs.length + 1)) := by omega
        simp only [h2, h3, h1, if_false]

theorem memWrite_keys_mem (m : List (Nat × α)) (a b : Nat) (x : α) :
    b ∈ (memWrite m a x).map Prod.fst → b = a ∨ b ∈ m.map Prod.fst := by
  induction m with
  | nil => simp [memWrite]
  | cons p m ih =>
    obtain ⟨k, v⟩ := p
    simp only [memWrite]
    split
    · simp
    · split
      · rename_i h; subst h; simp
      · simp only [List.map_cons, List.mem_cons]
        rintro (h | h)
        · exact .inr (.inl h)
        · exact (ih h).imp_right .inr

/-- A write at an index of the RAM keeps the canonical form. -/
theorem memWrite_wf {size : Nat} {m : List (Nat × α)} (h : Memory.wf size m) {a : Nat} (ha : a < size)
    (x : α) : Memory.wf size (memWrite m a x) := by
  refine ⟨?_, ?_⟩
  · obtain ⟨hp, -⟩ := h
    induction m with
    | nil => simp [memWrite]
    | cons p m ih =>
      obtain ⟨k, v⟩ := p
      simp only [List.map_cons, List.pairwise_cons] at hp
      simp only [memWrite]
      split
      · rename_i hk
        simp only [List.map_cons, List.pairwise_cons, List.mem_cons]
        refine ⟨?_, hp⟩
        rintro c (rfl | hc)
        · exact hk
        · exact lt_trans hk (hp.1 c hc)
      · split
        · rename_i h; subst h
          simpa only [List.map_cons, List.pairwise_cons] using hp
        · simp only [List.map_cons, List.pairwise_cons]
          refine ⟨fun c hc => ?_, ih hp.2⟩
          rcases memWrite_keys_mem m a c x hc with rfl | hc
          · omega
          · exact hp.1 c hc
  · intro b hb
    rcases memWrite_keys_mem m a b x hb with rfl | hb
    · exact ha
    · exact h.2 b hb

/-- Writing a list inside the RAM keeps the canonical form. -/
theorem memWriteList_wf {size : Nat} (xs : List α) {m : List (Nat × α)} (h : Memory.wf size m) {a : Nat}
    (ha : a + xs.length ≤ size) : Memory.wf size (memWriteList m a xs) := by
  induction xs generalizing m a with
  | nil => exact h
  | cons x xs ih =>
    rw [List.length_cons] at ha
    exact ih (memWrite_wf h (by omega) x) (by omega)

theorem memory_nil_wf (size : Nat) : Memory.wf size ([] : List (Nat × α)) :=
  ⟨List.Pairwise.nil, fun _ h => nomatch h⟩

end Sys2Proof.Machine
end

