-- ==== Sys2Proof/Laws/State.lean ====
section
/-! SUPPORT. One lemma for each field after each named update of State, true by unfolding, so that no
later proof unfolds a record update. -/

namespace Sys2Proof.Machine

variable (s : State)

@[simp] theorem State.raise_eq_complete (e : ErrorKind) : s.raise e = s.complete e := rfl

@[simp] theorem State.complete_engine (c : ErrorKind) : (s.complete c).engine = .idle := rfl
@[simp] theorem State.complete_config (c : ErrorKind) : (s.complete c).config = s.config := rfl
@[simp] theorem State.complete_done (c : ErrorKind) : (s.complete c).done = true := rfl
@[simp] theorem State.complete_keyValid (c : ErrorKind) : (s.complete c).keyValid = s.keyValid := rfl
@[simp] theorem State.complete_wbusy (c : ErrorKind) : (s.complete c).wbusy = s.wbusy := rfl
@[simp] theorem State.complete_err (c : ErrorKind) : (s.complete c).err = errorCode c := rfl
@[simp] theorem State.complete_irqEn (c : ErrorKind) : (s.complete c).irqEn = s.irqEn := rfl
@[simp] theorem State.complete_din (c : ErrorKind) : (s.complete c).din = s.din := rfl
@[simp] theorem State.complete_dout (c : ErrorKind) : (s.complete c).dout = s.dout := rfl
@[simp] theorem State.complete_opa (c : ErrorKind) : (s.complete c).opa = s.opa := rfl
@[simp] theorem State.complete_opb (c : ErrorKind) : (s.complete c).opb = s.opb := rfl
@[simp] theorem State.complete_res (c : ErrorKind) : (s.complete c).res = s.res := rfl
@[simp] theorem State.complete_keybuf (c : ErrorKind) : (s.complete c).keybuf = s.keybuf := rfl
@[simp] theorem State.complete_subkeys (c : ErrorKind) : (s.complete c).subkeys = s.subkeys := rfl
@[simp] theorem State.complete_keyWords (c : ErrorKind) : (s.complete c).keyWords = s.keyWords := rfl
@[simp] theorem State.complete_response (c : ErrorKind) : (s.complete c).response = s.response := rfl
@[simp] theorem State.complete_pins (c : ErrorKind) : (s.complete c).pins = s.pins := rfl
@[simp] theorem State.complete_draws (c : ErrorKind) : (s.complete c).draws = s.draws := rfl
@[simp] theorem State.complete_resets (c : ErrorKind) : (s.complete c).resets = s.resets := rfl

@[simp] theorem State.acceptFor_engine (n : Nat) (v : Reg32) : (s.acceptFor n v).engine = .busy v n := rfl
@[simp] theorem State.acceptFor_config (n : Nat) (v : Reg32) : (s.acceptFor n v).config = s.config := rfl
@[simp] theorem State.acceptFor_done (n : Nat) (v : Reg32) : (s.acceptFor n v).done = false := rfl
@[simp] theorem State.acceptFor_keyValid (n : Nat) (v : Reg32) :
    (s.acceptFor n v).keyValid = (s.keyValid && !wordIsKs v) := rfl
@[simp] theorem State.acceptFor_wbusy (n : Nat) (v : Reg32) : (s.acceptFor n v).wbusy = s.wbusy := rfl
@[simp] theorem State.acceptFor_err (n : Nat) (v : Reg32) : (s.acceptFor n v).err = s.err := rfl
@[simp] theorem State.acceptFor_irqEn (n : Nat) (v : Reg32) : (s.acceptFor n v).irqEn = s.irqEn := rfl
@[simp] theorem State.acceptFor_din (n : Nat) (v : Reg32) : (s.acceptFor n v).din = s.din := rfl
@[simp] theorem State.acceptFor_dout (n : Nat) (v : Reg32) : (s.acceptFor n v).dout = s.dout := rfl
@[simp] theorem State.acceptFor_opa (n : Nat) (v : Reg32) : (s.acceptFor n v).opa = s.opa := rfl
@[simp] theorem State.acceptFor_opb (n : Nat) (v : Reg32) : (s.acceptFor n v).opb = s.opb := rfl
@[simp] theorem State.acceptFor_res (n : Nat) (v : Reg32) : (s.acceptFor n v).res = s.res := rfl
@[simp] theorem State.acceptFor_keybuf (n : Nat) (v : Reg32) : (s.acceptFor n v).keybuf = s.keybuf := rfl
@[simp] theorem State.acceptFor_subkeys (n : Nat) (v : Reg32) : (s.acceptFor n v).subkeys = s.subkeys := rfl
@[simp] theorem State.acceptFor_keyWords (n : Nat) (v : Reg32) :
    (s.acceptFor n v).keyWords = s.keyWords := rfl
@[simp] theorem State.acceptFor_response (n : Nat) (v : Reg32) :
    (s.acceptFor n v).response = s.response := rfl
@[simp] theorem State.acceptFor_pins (n : Nat) (v : Reg32) : (s.acceptFor n v).pins = s.pins := rfl
@[simp] theorem State.acceptFor_draws (n : Nat) (v : Reg32) : (s.acceptFor n v).draws = s.draws := rfl
@[simp] theorem State.acceptFor_resets (n : Nat) (v : Reg32) : (s.acceptFor n v).resets = s.resets := rfl

@[simp] theorem State.accept_engine (v : Reg32) : (s.accept v).engine = .busy v (commandLatency v s) := rfl
@[simp] theorem State.accept_config (v : Reg32) : (s.accept v).config = s.config := rfl
@[simp] theorem State.accept_done (v : Reg32) : (s.accept v).done = false := rfl
@[simp] theorem State.accept_keyValid (v : Reg32) : (s.accept v).keyValid = (s.keyValid && !wordIsKs v) := rfl
@[simp] theorem State.accept_wbusy (v : Reg32) : (s.accept v).wbusy = s.wbusy := rfl
@[simp] theorem State.accept_err (v : Reg32) : (s.accept v).err = s.err := rfl
@[simp] theorem State.accept_irqEn (v : Reg32) : (s.accept v).irqEn = s.irqEn := rfl
@[simp] theorem State.accept_din (v : Reg32) : (s.accept v).din = s.din := rfl
@[simp] theorem State.accept_dout (v : Reg32) : (s.accept v).dout = s.dout := rfl
@[simp] theorem State.accept_opa (v : Reg32) : (s.accept v).opa = s.opa := rfl
@[simp] theorem State.accept_opb (v : Reg32) : (s.accept v).opb = s.opb := rfl
@[simp] theorem State.accept_res (v : Reg32) : (s.accept v).res = s.res := rfl
@[simp] theorem State.accept_keybuf (v : Reg32) : (s.accept v).keybuf = s.keybuf := rfl
@[simp] theorem State.accept_subkeys (v : Reg32) : (s.accept v).subkeys = s.subkeys := rfl
@[simp] theorem State.accept_keyWords (v : Reg32) : (s.accept v).keyWords = s.keyWords := rfl
@[simp] theorem State.accept_response (v : Reg32) : (s.accept v).response = s.response := rfl
@[simp] theorem State.accept_pins (v : Reg32) : (s.accept v).pins = s.pins := rfl
@[simp] theorem State.accept_draws (v : Reg32) : (s.accept v).draws = s.draws + 1 := rfl
@[simp] theorem State.accept_resets (v : Reg32) : (s.accept v).resets = s.resets := rfl

@[simp] theorem State.runOn_engine (v : Reg32) (n : Nat) : (s.runOn v n).engine = .busy v n := rfl
@[simp] theorem State.runOn_config (v : Reg32) (n : Nat) : (s.runOn v n).config = s.config := rfl
@[simp] theorem State.runOn_done (v : Reg32) (n : Nat) : (s.runOn v n).done = s.done := rfl
@[simp] theorem State.runOn_keyValid (v : Reg32) (n : Nat) : (s.runOn v n).keyValid = s.keyValid := rfl
@[simp] theorem State.runOn_wbusy (v : Reg32) (n : Nat) : (s.runOn v n).wbusy = s.wbusy := rfl
@[simp] theorem State.runOn_err (v : Reg32) (n : Nat) : (s.runOn v n).err = s.err := rfl
@[simp] theorem State.runOn_irqEn (v : Reg32) (n : Nat) : (s.runOn v n).irqEn = s.irqEn := rfl
@[simp] theorem State.runOn_din (v : Reg32) (n : Nat) : (s.runOn v n).din = s.din := rfl
@[simp] theorem State.runOn_dout (v : Reg32) (n : Nat) : (s.runOn v n).dout = s.dout := rfl
@[simp] theorem State.runOn_opa (v : Reg32) (n : Nat) : (s.runOn v n).opa = s.opa := rfl
@[simp] theorem State.runOn_opb (v : Reg32) (n : Nat) : (s.runOn v n).opb = s.opb := rfl
@[simp] theorem State.runOn_res (v : Reg32) (n : Nat) : (s.runOn v n).res = s.res := rfl
@[simp] theorem State.runOn_keybuf (v : Reg32) (n : Nat) : (s.runOn v n).keybuf = s.keybuf := rfl
@[simp] theorem State.runOn_subkeys (v : Reg32) (n : Nat) : (s.runOn v n).subkeys = s.subkeys := rfl
@[simp] theorem State.runOn_keyWords (v : Reg32) (n : Nat) : (s.runOn v n).keyWords = s.keyWords := rfl
@[simp] theorem State.runOn_response (v : Reg32) (n : Nat) : (s.runOn v n).response = s.response := rfl
@[simp] theorem State.runOn_pins (v : Reg32) (n : Nat) : (s.runOn v n).pins = s.pins := rfl
@[simp] theorem State.runOn_draws (v : Reg32) (n : Nat) : (s.runOn v n).draws = s.draws := rfl
@[simp] theorem State.runOn_resets (v : Reg32) (n : Nat) : (s.runOn v n).resets = s.resets := rfl

@[simp] theorem State.setRes_engine (x : Reg128) : (s.setRes x).engine = s.engine := rfl
@[simp] theorem State.setRes_config (x : Reg128) : (s.setRes x).config = s.config := rfl
@[simp] theorem State.setRes_done (x : Reg128) : (s.setRes x).done = s.done := rfl
@[simp] theorem State.setRes_keyValid (x : Reg128) : (s.setRes x).keyValid = s.keyValid := rfl
@[simp] theorem State.setRes_wbusy (x : Reg128) : (s.setRes x).wbusy = s.wbusy := rfl
@[simp] theorem State.setRes_err (x : Reg128) : (s.setRes x).err = s.err := rfl
@[simp] theorem State.setRes_irqEn (x : Reg128) : (s.setRes x).irqEn = s.irqEn := rfl
@[simp] theorem State.setRes_din (x : Reg128) : (s.setRes x).din = s.din := rfl
@[simp] theorem State.setRes_dout (x : Reg128) : (s.setRes x).dout = s.dout := rfl
@[simp] theorem State.setRes_opa (x : Reg128) : (s.setRes x).opa = s.opa := rfl
@[simp] theorem State.setRes_opb (x : Reg128) : (s.setRes x).opb = s.opb := rfl
@[simp] theorem State.setRes_res (x : Reg128) : (s.setRes x).res = x := rfl
@[simp] theorem State.setRes_keybuf (x : Reg128) : (s.setRes x).keybuf = s.keybuf := rfl
@[simp] theorem State.setRes_subkeys (x : Reg128) : (s.setRes x).subkeys = s.subkeys := rfl
@[simp] theorem State.setRes_keyWords (x : Reg128) : (s.setRes x).keyWords = s.keyWords := rfl
@[simp] theorem State.setRes_response (x : Reg128) : (s.setRes x).response = s.response := rfl
@[simp] theorem State.setRes_pins (x : Reg128) : (s.setRes x).pins = s.pins := rfl
@[simp] theorem State.setRes_draws (x : Reg128) : (s.setRes x).draws = s.draws := rfl
@[simp] theorem State.setRes_resets (x : Reg128) : (s.setRes x).resets = s.resets := rfl

@[simp] theorem State.setOperands_engine (a b : Reg128) : (s.setOperands a b).engine = s.engine := rfl
@[simp] theorem State.setOperands_config (a b : Reg128) : (s.setOperands a b).config = s.config := rfl
@[simp] theorem State.setOperands_done (a b : Reg128) : (s.setOperands a b).done = s.done := rfl
@[simp] theorem State.setOperands_keyValid (a b : Reg128) : (s.setOperands a b).keyValid = s.keyValid := rfl
@[simp] theorem State.setOperands_wbusy (a b : Reg128) : (s.setOperands a b).wbusy = s.wbusy := rfl
@[simp] theorem State.setOperands_err (a b : Reg128) : (s.setOperands a b).err = s.err := rfl
@[simp] theorem State.setOperands_irqEn (a b : Reg128) : (s.setOperands a b).irqEn = s.irqEn := rfl
@[simp] theorem State.setOperands_din (a b : Reg128) : (s.setOperands a b).din = s.din := rfl
@[simp] theorem State.setOperands_dout (a b : Reg128) : (s.setOperands a b).dout = s.dout := rfl
@[simp] theorem State.setOperands_opa (a b : Reg128) : (s.setOperands a b).opa = a := rfl
@[simp] theorem State.setOperands_opb (a b : Reg128) : (s.setOperands a b).opb = b := rfl
@[simp] theorem State.setOperands_res (a b : Reg128) : (s.setOperands a b).res = s.res := rfl
@[simp] theorem State.setOperands_keybuf (a b : Reg128) : (s.setOperands a b).keybuf = s.keybuf := rfl
@[simp] theorem State.setOperands_subkeys (a b : Reg128) : (s.setOperands a b).subkeys = s.subkeys := rfl
@[simp] theorem State.setOperands_keyWords (a b : Reg128) : (s.setOperands a b).keyWords = s.keyWords := rfl
@[simp] theorem State.setOperands_response (a b : Reg128) : (s.setOperands a b).response = s.response := rfl
@[simp] theorem State.setOperands_pins (a b : Reg128) : (s.setOperands a b).pins = s.pins := rfl
@[simp] theorem State.setOperands_draws (a b : Reg128) : (s.setOperands a b).draws = s.draws := rfl
@[simp] theorem State.setOperands_resets (a b : Reg128) : (s.setOperands a b).resets = s.resets := rfl

@[simp] theorem State.setDout_engine (v : Vector Reg32 8) : (s.setDout v).engine = s.engine := rfl
@[simp] theorem State.setDout_config (v : Vector Reg32 8) : (s.setDout v).config = s.config := rfl
@[simp] theorem State.setDout_done (v : Vector Reg32 8) : (s.setDout v).done = s.done := rfl
@[simp] theorem State.setDout_keyValid (v : Vector Reg32 8) : (s.setDout v).keyValid = s.keyValid := rfl
@[simp] theorem State.setDout_wbusy (v : Vector Reg32 8) : (s.setDout v).wbusy = s.wbusy := rfl
@[simp] theorem State.setDout_err (v : Vector Reg32 8) : (s.setDout v).err = s.err := rfl
@[simp] theorem State.setDout_irqEn (v : Vector Reg32 8) : (s.setDout v).irqEn = s.irqEn := rfl
@[simp] theorem State.setDout_din (v : Vector Reg32 8) : (s.setDout v).din = s.din := rfl
@[simp] theorem State.setDout_dout (v : Vector Reg32 8) : (s.setDout v).dout = v := rfl
@[simp] theorem State.setDout_opa (v : Vector Reg32 8) : (s.setDout v).opa = s.opa := rfl
@[simp] theorem State.setDout_opb (v : Vector Reg32 8) : (s.setDout v).opb = s.opb := rfl
@[simp] theorem State.setDout_res (v : Vector Reg32 8) : (s.setDout v).res = s.res := rfl
@[simp] theorem State.setDout_keybuf (v : Vector Reg32 8) : (s.setDout v).keybuf = s.keybuf := rfl
@[simp] theorem State.setDout_subkeys (v : Vector Reg32 8) : (s.setDout v).subkeys = s.subkeys := rfl
@[simp] theorem State.setDout_keyWords (v : Vector Reg32 8) : (s.setDout v).keyWords = s.keyWords := rfl
@[simp] theorem State.setDout_response (v : Vector Reg32 8) : (s.setDout v).response = s.response := rfl
@[simp] theorem State.setDout_pins (v : Vector Reg32 8) : (s.setDout v).pins = s.pins := rfl
@[simp] theorem State.setDout_draws (v : Vector Reg32 8) : (s.setDout v).draws = s.draws := rfl
@[simp] theorem State.setDout_resets (v : Vector Reg32 8) : (s.setDout v).resets = s.resets := rfl

@[simp] theorem State.setSchedule_engine (ls ss : List Reg128) :
    (s.setSchedule ls ss).engine = s.engine := rfl
@[simp] theorem State.setSchedule_config (ls ss : List Reg128) :
    (s.setSchedule ls ss).config = s.config := rfl
@[simp] theorem State.setSchedule_done (ls ss : List Reg128) : (s.setSchedule ls ss).done = s.done := rfl
@[simp] theorem State.setSchedule_keyValid (ls ss : List Reg128) :
    (s.setSchedule ls ss).keyValid = true := rfl
@[simp] theorem State.setSchedule_wbusy (ls ss : List Reg128) : (s.setSchedule ls ss).wbusy = s.wbusy := rfl
@[simp] theorem State.setSchedule_err (ls ss : List Reg128) : (s.setSchedule ls ss).err = s.err := rfl
@[simp] theorem State.setSchedule_irqEn (ls ss : List Reg128) : (s.setSchedule ls ss).irqEn = s.irqEn := rfl
@[simp] theorem State.setSchedule_din (ls ss : List Reg128) : (s.setSchedule ls ss).din = s.din := rfl
@[simp] theorem State.setSchedule_dout (ls ss : List Reg128) : (s.setSchedule ls ss).dout = s.dout := rfl
@[simp] theorem State.setSchedule_opa (ls ss : List Reg128) : (s.setSchedule ls ss).opa = s.opa := rfl
@[simp] theorem State.setSchedule_opb (ls ss : List Reg128) : (s.setSchedule ls ss).opb = s.opb := rfl
@[simp] theorem State.setSchedule_res (ls ss : List Reg128) : (s.setSchedule ls ss).res = s.res := rfl
@[simp] theorem State.setSchedule_keybuf (ls ss : List Reg128) :
    (s.setSchedule ls ss).keybuf = s.keybuf := rfl
@[simp] theorem State.setSchedule_subkeys (ls ss : List Reg128) :
    (s.setSchedule ls ss).subkeys = memWriteList s.subkeys 0 ss := rfl
@[simp] theorem State.setSchedule_keyWords (ls ss : List Reg128) :
    (s.setSchedule ls ss).keyWords = memWriteList s.keyWords 0 ls := rfl
@[simp] theorem State.setSchedule_response (ls ss : List Reg128) :
    (s.setSchedule ls ss).response = s.response := rfl
@[simp] theorem State.setSchedule_pins (ls ss : List Reg128) : (s.setSchedule ls ss).pins = s.pins := rfl
@[simp] theorem State.setSchedule_draws (ls ss : List Reg128) : (s.setSchedule ls ss).draws = s.draws := rfl
@[simp] theorem State.setSchedule_resets (ls ss : List Reg128) :
    (s.setSchedule ls ss).resets = s.resets := rfl

@[simp] theorem State.dropWrite_engine : (s.dropWrite).engine = s.engine := rfl
@[simp] theorem State.dropWrite_config : (s.dropWrite).config = s.config := rfl
@[simp] theorem State.dropWrite_done : (s.dropWrite).done = s.done := rfl
@[simp] theorem State.dropWrite_keyValid : (s.dropWrite).keyValid = s.keyValid := rfl
@[simp] theorem State.dropWrite_wbusy : (s.dropWrite).wbusy = true := rfl
@[simp] theorem State.dropWrite_err : (s.dropWrite).err = s.err := rfl
@[simp] theorem State.dropWrite_irqEn : (s.dropWrite).irqEn = s.irqEn := rfl
@[simp] theorem State.dropWrite_din : (s.dropWrite).din = s.din := rfl
@[simp] theorem State.dropWrite_dout : (s.dropWrite).dout = s.dout := rfl
@[simp] theorem State.dropWrite_opa : (s.dropWrite).opa = s.opa := rfl
@[simp] theorem State.dropWrite_opb : (s.dropWrite).opb = s.opb := rfl
@[simp] theorem State.dropWrite_res : (s.dropWrite).res = s.res := rfl
@[simp] theorem State.dropWrite_keybuf : (s.dropWrite).keybuf = s.keybuf := rfl
@[simp] theorem State.dropWrite_subkeys : (s.dropWrite).subkeys = s.subkeys := rfl
@[simp] theorem State.dropWrite_keyWords : (s.dropWrite).keyWords = s.keyWords := rfl
@[simp] theorem State.dropWrite_response : (s.dropWrite).response = s.response := rfl
@[simp] theorem State.dropWrite_pins : (s.dropWrite).pins = s.pins := rfl
@[simp] theorem State.dropWrite_draws : (s.dropWrite).draws = s.draws := rfl
@[simp] theorem State.dropWrite_resets : (s.dropWrite).resets = s.resets := rfl

@[simp] theorem State.writeStatus_engine (b : Bool) (v : Reg32) : (s.writeStatus b v).engine = s.engine := rfl
@[simp] theorem State.writeStatus_config (b : Bool) (v : Reg32) : (s.writeStatus b v).config = s.config := rfl
@[simp] theorem State.writeStatus_done (b : Bool) (v : Reg32) :
    (s.writeStatus b v).done = (s.done && (b || !v.getLsbD 1)) := rfl
@[simp] theorem State.writeStatus_keyValid (b : Bool) (v : Reg32) :
    (s.writeStatus b v).keyValid = s.keyValid := rfl
@[simp] theorem State.writeStatus_wbusy (b : Bool) (v : Reg32) :
    (s.writeStatus b v).wbusy = (s.wbusy && !v.getLsbD 3) := rfl
@[simp] theorem State.writeStatus_err (b : Bool) (v : Reg32) : (s.writeStatus b v).err = s.err := rfl
@[simp] theorem State.writeStatus_irqEn (b : Bool) (v : Reg32) : (s.writeStatus b v).irqEn = s.irqEn := rfl
@[simp] theorem State.writeStatus_din (b : Bool) (v : Reg32) : (s.writeStatus b v).din = s.din := rfl
@[simp] theorem State.writeStatus_dout (b : Bool) (v : Reg32) : (s.writeStatus b v).dout = s.dout := rfl
@[simp] theorem State.writeStatus_opa (b : Bool) (v : Reg32) : (s.writeStatus b v).opa = s.opa := rfl
@[simp] theorem State.writeStatus_opb (b : Bool) (v : Reg32) : (s.writeStatus b v).opb = s.opb := rfl
@[simp] theorem State.writeStatus_res (b : Bool) (v : Reg32) : (s.writeStatus b v).res = s.res := rfl
@[simp] theorem State.writeStatus_keybuf (b : Bool) (v : Reg32) : (s.writeStatus b v).keybuf = s.keybuf := rfl
@[simp] theorem State.writeStatus_subkeys (b : Bool) (v : Reg32) :
    (s.writeStatus b v).subkeys = s.subkeys := rfl
@[simp] theorem State.writeStatus_keyWords (b : Bool) (v : Reg32) :
    (s.writeStatus b v).keyWords = s.keyWords := rfl
@[simp] theorem State.writeStatus_response (b : Bool) (v : Reg32) :
    (s.writeStatus b v).response = s.response := rfl
@[simp] theorem State.writeStatus_pins (b : Bool) (v : Reg32) : (s.writeStatus b v).pins = s.pins := rfl
@[simp] theorem State.writeStatus_draws (b : Bool) (v : Reg32) : (s.writeStatus b v).draws = s.draws := rfl
@[simp] theorem State.writeStatus_resets (b : Bool) (v : Reg32) : (s.writeStatus b v).resets = s.resets := rfl

@[simp] theorem State.respond_engine (r : BusResp) (d : Option Reg32) :
    (s.respond r d).engine = s.engine := rfl
@[simp] theorem State.respond_config (r : BusResp) (d : Option Reg32) :
    (s.respond r d).config = s.config := rfl
@[simp] theorem State.respond_done (r : BusResp) (d : Option Reg32) : (s.respond r d).done = s.done := rfl
@[simp] theorem State.respond_keyValid (r : BusResp) (d : Option Reg32) :
    (s.respond r d).keyValid = s.keyValid := rfl
@[simp] theorem State.respond_wbusy (r : BusResp) (d : Option Reg32) : (s.respond r d).wbusy = s.wbusy := rfl
@[simp] theorem State.respond_err (r : BusResp) (d : Option Reg32) : (s.respond r d).err = s.err := rfl
@[simp] theorem State.respond_irqEn (r : BusResp) (d : Option Reg32) : (s.respond r d).irqEn = s.irqEn := rfl
@[simp] theorem State.respond_din (r : BusResp) (d : Option Reg32) : (s.respond r d).din = s.din := rfl
@[simp] theorem State.respond_dout (r : BusResp) (d : Option Reg32) : (s.respond r d).dout = s.dout := rfl
@[simp] theorem State.respond_opa (r : BusResp) (d : Option Reg32) : (s.respond r d).opa = s.opa := rfl
@[simp] theorem State.respond_opb (r : BusResp) (d : Option Reg32) : (s.respond r d).opb = s.opb := rfl
@[simp] theorem State.respond_res (r : BusResp) (d : Option Reg32) : (s.respond r d).res = s.res := rfl
@[simp] theorem State.respond_keybuf (r : BusResp) (d : Option Reg32) :
    (s.respond r d).keybuf = s.keybuf := rfl
@[simp] theorem State.respond_subkeys (r : BusResp) (d : Option Reg32) :
    (s.respond r d).subkeys = s.subkeys := rfl
@[simp] theorem State.respond_keyWords (r : BusResp) (d : Option Reg32) :
    (s.respond r d).keyWords = s.keyWords := rfl
@[simp] theorem State.respond_response (r : BusResp) (d : Option Reg32) :
    (s.respond r d).response = some { resp := r, rdata := d } := rfl
@[simp] theorem State.respond_pins (r : BusResp) (d : Option Reg32) : (s.respond r d).pins = s.pins := rfl
@[simp] theorem State.respond_draws (r : BusResp) (d : Option Reg32) : (s.respond r d).draws = s.draws := rfl
@[simp] theorem State.respond_resets (r : BusResp) (d : Option Reg32) :
    (s.respond r d).resets = s.resets := rfl

@[simp] theorem State.respondFree_engine (r : BusResp) : (s.respondFree r).engine = s.engine := rfl
@[simp] theorem State.respondFree_config (r : BusResp) : (s.respondFree r).config = s.config := rfl
@[simp] theorem State.respondFree_done (r : BusResp) : (s.respondFree r).done = s.done := rfl
@[simp] theorem State.respondFree_keyValid (r : BusResp) : (s.respondFree r).keyValid = s.keyValid := rfl
@[simp] theorem State.respondFree_wbusy (r : BusResp) : (s.respondFree r).wbusy = s.wbusy := rfl
@[simp] theorem State.respondFree_err (r : BusResp) : (s.respondFree r).err = s.err := rfl
@[simp] theorem State.respondFree_irqEn (r : BusResp) : (s.respondFree r).irqEn = s.irqEn := rfl
@[simp] theorem State.respondFree_din (r : BusResp) : (s.respondFree r).din = s.din := rfl
@[simp] theorem State.respondFree_dout (r : BusResp) : (s.respondFree r).dout = s.dout := rfl
@[simp] theorem State.respondFree_opa (r : BusResp) : (s.respondFree r).opa = s.opa := rfl
@[simp] theorem State.respondFree_opb (r : BusResp) : (s.respondFree r).opb = s.opb := rfl
@[simp] theorem State.respondFree_res (r : BusResp) : (s.respondFree r).res = s.res := rfl
@[simp] theorem State.respondFree_keybuf (r : BusResp) : (s.respondFree r).keybuf = s.keybuf := rfl
@[simp] theorem State.respondFree_subkeys (r : BusResp) : (s.respondFree r).subkeys = s.subkeys := rfl
@[simp] theorem State.respondFree_keyWords (r : BusResp) : (s.respondFree r).keyWords = s.keyWords := rfl
@[simp] theorem State.respondFree_response (r : BusResp) :
    (s.respondFree r).response = some { resp := r, rdata := some (Config.freeValue s.draws) } := rfl
@[simp] theorem State.respondFree_pins (r : BusResp) : (s.respondFree r).pins = s.pins := rfl
@[simp] theorem State.respondFree_draws (r : BusResp) : (s.respondFree r).draws = s.draws + 1 := rfl
@[simp] theorem State.respondFree_resets (r : BusResp) : (s.respondFree r).resets = s.resets := rfl

@[simp] theorem State.setConfig_engine (v : Reg32) : (s.setConfig v).engine = s.engine := rfl
@[simp] theorem State.setConfig_config (v : Reg32) : (s.setConfig v).config = v &&& 0x1FF1FF07#32 := rfl
@[simp] theorem State.setConfig_done (v : Reg32) : (s.setConfig v).done = s.done := rfl
@[simp] theorem State.setConfig_keyValid (v : Reg32) : (s.setConfig v).keyValid = false := rfl
@[simp] theorem State.setConfig_wbusy (v : Reg32) : (s.setConfig v).wbusy = s.wbusy := rfl
@[simp] theorem State.setConfig_err (v : Reg32) : (s.setConfig v).err = s.err := rfl
@[simp] theorem State.setConfig_irqEn (v : Reg32) : (s.setConfig v).irqEn = s.irqEn := rfl
@[simp] theorem State.setConfig_din (v : Reg32) : (s.setConfig v).din = s.din := rfl
@[simp] theorem State.setConfig_dout (v : Reg32) : (s.setConfig v).dout = s.dout := rfl
@[simp] theorem State.setConfig_opa (v : Reg32) : (s.setConfig v).opa = s.opa := rfl
@[simp] theorem State.setConfig_opb (v : Reg32) : (s.setConfig v).opb = s.opb := rfl
@[simp] theorem State.setConfig_res (v : Reg32) : (s.setConfig v).res = s.res := rfl
@[simp] theorem State.setConfig_keybuf (v : Reg32) : (s.setConfig v).keybuf = s.keybuf := rfl
@[simp] theorem State.setConfig_subkeys (v : Reg32) : (s.setConfig v).subkeys = s.subkeys := rfl
@[simp] theorem State.setConfig_keyWords (v : Reg32) : (s.setConfig v).keyWords = s.keyWords := rfl
@[simp] theorem State.setConfig_response (v : Reg32) : (s.setConfig v).response = s.response := rfl
@[simp] theorem State.setConfig_pins (v : Reg32) : (s.setConfig v).pins = s.pins := rfl
@[simp] theorem State.setConfig_draws (v : Reg32) : (s.setConfig v).draws = s.draws := rfl
@[simp] theorem State.setConfig_resets (v : Reg32) : (s.setConfig v).resets = s.resets := rfl

@[simp] theorem State.setIrqEn_engine (v : Reg32) : (s.setIrqEn v).engine = s.engine := rfl
@[simp] theorem State.setIrqEn_config (v : Reg32) : (s.setIrqEn v).config = s.config := rfl
@[simp] theorem State.setIrqEn_done (v : Reg32) : (s.setIrqEn v).done = s.done := rfl
@[simp] theorem State.setIrqEn_keyValid (v : Reg32) : (s.setIrqEn v).keyValid = s.keyValid := rfl
@[simp] theorem State.setIrqEn_wbusy (v : Reg32) : (s.setIrqEn v).wbusy = s.wbusy := rfl
@[simp] theorem State.setIrqEn_err (v : Reg32) : (s.setIrqEn v).err = s.err := rfl
@[simp] theorem State.setIrqEn_irqEn (v : Reg32) : (s.setIrqEn v).irqEn = v &&& 0x00000001#32 := rfl
@[simp] theorem State.setIrqEn_din (v : Reg32) : (s.setIrqEn v).din = s.din := rfl
@[simp] theorem State.setIrqEn_dout (v : Reg32) : (s.setIrqEn v).dout = s.dout := rfl
@[simp] theorem State.setIrqEn_opa (v : Reg32) : (s.setIrqEn v).opa = s.opa := rfl
@[simp] theorem State.setIrqEn_opb (v : Reg32) : (s.setIrqEn v).opb = s.opb := rfl
@[simp] theorem State.setIrqEn_res (v : Reg32) : (s.setIrqEn v).res = s.res := rfl
@[simp] theorem State.setIrqEn_keybuf (v : Reg32) : (s.setIrqEn v).keybuf = s.keybuf := rfl
@[simp] theorem State.setIrqEn_subkeys (v : Reg32) : (s.setIrqEn v).subkeys = s.subkeys := rfl
@[simp] theorem State.setIrqEn_keyWords (v : Reg32) : (s.setIrqEn v).keyWords = s.keyWords := rfl
@[simp] theorem State.setIrqEn_response (v : Reg32) : (s.setIrqEn v).response = s.response := rfl
@[simp] theorem State.setIrqEn_pins (v : Reg32) : (s.setIrqEn v).pins = s.pins := rfl
@[simp] theorem State.setIrqEn_draws (v : Reg32) : (s.setIrqEn v).draws = s.draws := rfl
@[simp] theorem State.setIrqEn_resets (v : Reg32) : (s.setIrqEn v).resets = s.resets := rfl

@[simp] theorem State.setDin_engine (k : Fin 8) (v : Reg32) : (s.setDin k v).engine = s.engine := rfl
@[simp] theorem State.setDin_config (k : Fin 8) (v : Reg32) : (s.setDin k v).config = s.config := rfl
@[simp] theorem State.setDin_done (k : Fin 8) (v : Reg32) : (s.setDin k v).done = s.done := rfl
@[simp] theorem State.setDin_keyValid (k : Fin 8) (v : Reg32) : (s.setDin k v).keyValid = s.keyValid := rfl
@[simp] theorem State.setDin_wbusy (k : Fin 8) (v : Reg32) : (s.setDin k v).wbusy = s.wbusy := rfl
@[simp] theorem State.setDin_err (k : Fin 8) (v : Reg32) : (s.setDin k v).err = s.err := rfl
@[simp] theorem State.setDin_irqEn (k : Fin 8) (v : Reg32) : (s.setDin k v).irqEn = s.irqEn := rfl
@[simp] theorem State.setDin_din (k : Fin 8) (v : Reg32) : (s.setDin k v).din = s.din.set k v := rfl
@[simp] theorem State.setDin_dout (k : Fin 8) (v : Reg32) : (s.setDin k v).dout = s.dout := rfl
@[simp] theorem State.setDin_opa (k : Fin 8) (v : Reg32) : (s.setDin k v).opa = s.opa := rfl
@[simp] theorem State.setDin_opb (k : Fin 8) (v : Reg32) : (s.setDin k v).opb = s.opb := rfl
@[simp] theorem State.setDin_res (k : Fin 8) (v : Reg32) : (s.setDin k v).res = s.res := rfl
@[simp] theorem State.setDin_keybuf (k : Fin 8) (v : Reg32) : (s.setDin k v).keybuf = s.keybuf := rfl
@[simp] theorem State.setDin_subkeys (k : Fin 8) (v : Reg32) : (s.setDin k v).subkeys = s.subkeys := rfl
@[simp] theorem State.setDin_keyWords (k : Fin 8) (v : Reg32) : (s.setDin k v).keyWords = s.keyWords := rfl
@[simp] theorem State.setDin_response (k : Fin 8) (v : Reg32) : (s.setDin k v).response = s.response := rfl
@[simp] theorem State.setDin_pins (k : Fin 8) (v : Reg32) : (s.setDin k v).pins = s.pins := rfl
@[simp] theorem State.setDin_draws (k : Fin 8) (v : Reg32) : (s.setDin k v).draws = s.draws := rfl
@[simp] theorem State.setDin_resets (k : Fin 8) (v : Reg32) : (s.setDin k v).resets = s.resets := rfl

@[simp] theorem State.setOpa_engine (k : Fin 4) (v : Reg32) : (s.setOpa k v).engine = s.engine := rfl
@[simp] theorem State.setOpa_config (k : Fin 4) (v : Reg32) : (s.setOpa k v).config = s.config := rfl
@[simp] theorem State.setOpa_done (k : Fin 4) (v : Reg32) : (s.setOpa k v).done = s.done := rfl
@[simp] theorem State.setOpa_keyValid (k : Fin 4) (v : Reg32) : (s.setOpa k v).keyValid = s.keyValid := rfl
@[simp] theorem State.setOpa_wbusy (k : Fin 4) (v : Reg32) : (s.setOpa k v).wbusy = s.wbusy := rfl
@[simp] theorem State.setOpa_err (k : Fin 4) (v : Reg32) : (s.setOpa k v).err = s.err := rfl
@[simp] theorem State.setOpa_irqEn (k : Fin 4) (v : Reg32) : (s.setOpa k v).irqEn = s.irqEn := rfl
@[simp] theorem State.setOpa_din (k : Fin 4) (v : Reg32) : (s.setOpa k v).din = s.din := rfl
@[simp] theorem State.setOpa_dout (k : Fin 4) (v : Reg32) : (s.setOpa k v).dout = s.dout := rfl
@[simp] theorem State.setOpa_opa (k : Fin 4) (v : Reg32) : (s.setOpa k v).opa = setQuarter s.opa k v := rfl
@[simp] theorem State.setOpa_opb (k : Fin 4) (v : Reg32) : (s.setOpa k v).opb = s.opb := rfl
@[simp] theorem State.setOpa_res (k : Fin 4) (v : Reg32) : (s.setOpa k v).res = s.res := rfl
@[simp] theorem State.setOpa_keybuf (k : Fin 4) (v : Reg32) : (s.setOpa k v).keybuf = s.keybuf := rfl
@[simp] theorem State.setOpa_subkeys (k : Fin 4) (v : Reg32) : (s.setOpa k v).subkeys = s.subkeys := rfl
@[simp] theorem State.setOpa_keyWords (k : Fin 4) (v : Reg32) : (s.setOpa k v).keyWords = s.keyWords := rfl
@[simp] theorem State.setOpa_response (k : Fin 4) (v : Reg32) : (s.setOpa k v).response = s.response := rfl
@[simp] theorem State.setOpa_pins (k : Fin 4) (v : Reg32) : (s.setOpa k v).pins = s.pins := rfl
@[simp] theorem State.setOpa_draws (k : Fin 4) (v : Reg32) : (s.setOpa k v).draws = s.draws := rfl
@[simp] theorem State.setOpa_resets (k : Fin 4) (v : Reg32) : (s.setOpa k v).resets = s.resets := rfl

@[simp] theorem State.setOpb_engine (k : Fin 4) (v : Reg32) : (s.setOpb k v).engine = s.engine := rfl
@[simp] theorem State.setOpb_config (k : Fin 4) (v : Reg32) : (s.setOpb k v).config = s.config := rfl
@[simp] theorem State.setOpb_done (k : Fin 4) (v : Reg32) : (s.setOpb k v).done = s.done := rfl
@[simp] theorem State.setOpb_keyValid (k : Fin 4) (v : Reg32) : (s.setOpb k v).keyValid = s.keyValid := rfl
@[simp] theorem State.setOpb_wbusy (k : Fin 4) (v : Reg32) : (s.setOpb k v).wbusy = s.wbusy := rfl
@[simp] theorem State.setOpb_err (k : Fin 4) (v : Reg32) : (s.setOpb k v).err = s.err := rfl
@[simp] theorem State.setOpb_irqEn (k : Fin 4) (v : Reg32) : (s.setOpb k v).irqEn = s.irqEn := rfl
@[simp] theorem State.setOpb_din (k : Fin 4) (v : Reg32) : (s.setOpb k v).din = s.din := rfl
@[simp] theorem State.setOpb_dout (k : Fin 4) (v : Reg32) : (s.setOpb k v).dout = s.dout := rfl
@[simp] theorem State.setOpb_opa (k : Fin 4) (v : Reg32) : (s.setOpb k v).opa = s.opa := rfl
@[simp] theorem State.setOpb_opb (k : Fin 4) (v : Reg32) : (s.setOpb k v).opb = setQuarter s.opb k v := rfl
@[simp] theorem State.setOpb_res (k : Fin 4) (v : Reg32) : (s.setOpb k v).res = s.res := rfl
@[simp] theorem State.setOpb_keybuf (k : Fin 4) (v : Reg32) : (s.setOpb k v).keybuf = s.keybuf := rfl
@[simp] theorem State.setOpb_subkeys (k : Fin 4) (v : Reg32) : (s.setOpb k v).subkeys = s.subkeys := rfl
@[simp] theorem State.setOpb_keyWords (k : Fin 4) (v : Reg32) : (s.setOpb k v).keyWords = s.keyWords := rfl
@[simp] theorem State.setOpb_response (k : Fin 4) (v : Reg32) : (s.setOpb k v).response = s.response := rfl
@[simp] theorem State.setOpb_pins (k : Fin 4) (v : Reg32) : (s.setOpb k v).pins = s.pins := rfl
@[simp] theorem State.setOpb_draws (k : Fin 4) (v : Reg32) : (s.setOpb k v).draws = s.draws := rfl
@[simp] theorem State.setOpb_resets (k : Fin 4) (v : Reg32) : (s.setOpb k v).resets = s.resets := rfl

@[simp] theorem State.setKey_engine (k : Fin 64) (v : Reg32) : (s.setKey k v).engine = s.engine := rfl
@[simp] theorem State.setKey_config (k : Fin 64) (v : Reg32) : (s.setKey k v).config = s.config := rfl
@[simp] theorem State.setKey_done (k : Fin 64) (v : Reg32) : (s.setKey k v).done = s.done := rfl
@[simp] theorem State.setKey_keyValid (k : Fin 64) (v : Reg32) : (s.setKey k v).keyValid = false := rfl
@[simp] theorem State.setKey_wbusy (k : Fin 64) (v : Reg32) : (s.setKey k v).wbusy = s.wbusy := rfl
@[simp] theorem State.setKey_err (k : Fin 64) (v : Reg32) : (s.setKey k v).err = s.err := rfl
@[simp] theorem State.setKey_irqEn (k : Fin 64) (v : Reg32) : (s.setKey k v).irqEn = s.irqEn := rfl
@[simp] theorem State.setKey_din (k : Fin 64) (v : Reg32) : (s.setKey k v).din = s.din := rfl
@[simp] theorem State.setKey_dout (k : Fin 64) (v : Reg32) : (s.setKey k v).dout = s.dout := rfl
@[simp] theorem State.setKey_opa (k : Fin 64) (v : Reg32) : (s.setKey k v).opa = s.opa := rfl
@[simp] theorem State.setKey_opb (k : Fin 64) (v : Reg32) : (s.setKey k v).opb = s.opb := rfl
@[simp] theorem State.setKey_res (k : Fin 64) (v : Reg32) : (s.setKey k v).res = s.res := rfl
@[simp] theorem State.setKey_keybuf (k : Fin 64) (v : Reg32) :
    (s.setKey k v).keybuf = memWriteList s.keybuf (4 * k.val) [laneByte v 0, laneByte v 1, laneByte v 2, laneByte v 3] := rfl
@[simp] theorem State.setKey_subkeys (k : Fin 64) (v : Reg32) : (s.setKey k v).subkeys = s.subkeys := rfl
@[simp] theorem State.setKey_keyWords (k : Fin 64) (v : Reg32) : (s.setKey k v).keyWords = s.keyWords := rfl
@[simp] theorem State.setKey_response (k : Fin 64) (v : Reg32) : (s.setKey k v).response = s.response := rfl
@[simp] theorem State.setKey_pins (k : Fin 64) (v : Reg32) : (s.setKey k v).pins = s.pins := rfl
@[simp] theorem State.setKey_draws (k : Fin 64) (v : Reg32) : (s.setKey k v).draws = s.draws := rfl
@[simp] theorem State.setKey_resets (k : Fin 64) (v : Reg32) : (s.setKey k v).resets = s.resets := rfl

@[simp] theorem State.beginCycle_engine : (s.beginCycle).engine = s.engine := rfl
@[simp] theorem State.beginCycle_config : (s.beginCycle).config = s.config := rfl
@[simp] theorem State.beginCycle_done : (s.beginCycle).done = s.done := rfl
@[simp] theorem State.beginCycle_keyValid : (s.beginCycle).keyValid = s.keyValid := rfl
@[simp] theorem State.beginCycle_wbusy : (s.beginCycle).wbusy = s.wbusy := rfl
@[simp] theorem State.beginCycle_err : (s.beginCycle).err = s.err := rfl
@[simp] theorem State.beginCycle_irqEn : (s.beginCycle).irqEn = s.irqEn := rfl
@[simp] theorem State.beginCycle_din : (s.beginCycle).din = s.din := rfl
@[simp] theorem State.beginCycle_dout : (s.beginCycle).dout = s.dout := rfl
@[simp] theorem State.beginCycle_opa : (s.beginCycle).opa = s.opa := rfl
@[simp] theorem State.beginCycle_opb : (s.beginCycle).opb = s.opb := rfl
@[simp] theorem State.beginCycle_res : (s.beginCycle).res = s.res := rfl
@[simp] theorem State.beginCycle_keybuf : (s.beginCycle).keybuf = s.keybuf := rfl
@[simp] theorem State.beginCycle_subkeys : (s.beginCycle).subkeys = s.subkeys := rfl
@[simp] theorem State.beginCycle_keyWords : (s.beginCycle).keyWords = s.keyWords := rfl
@[simp] theorem State.beginCycle_response : (s.beginCycle).response = none := rfl
@[simp] theorem State.beginCycle_pins : (s.beginCycle).pins = s.pins.tail := rfl
@[simp] theorem State.beginCycle_draws : (s.beginCycle).draws = s.draws := rfl
@[simp] theorem State.beginCycle_resets : (s.beginCycle).resets = s.resets := rfl

@[simp] theorem State.accessInReset_engine (a : Access) : (s.accessInReset a).engine = s.engine := rfl
@[simp] theorem State.accessInReset_config (a : Access) : (s.accessInReset a).config = s.config := rfl
@[simp] theorem State.accessInReset_done (a : Access) : (s.accessInReset a).done = s.done := rfl
@[simp] theorem State.accessInReset_keyValid (a : Access) : (s.accessInReset a).keyValid = s.keyValid := rfl
@[simp] theorem State.accessInReset_wbusy (a : Access) : (s.accessInReset a).wbusy = s.wbusy := rfl
@[simp] theorem State.accessInReset_err (a : Access) : (s.accessInReset a).err = s.err := rfl
@[simp] theorem State.accessInReset_irqEn (a : Access) : (s.accessInReset a).irqEn = s.irqEn := rfl
@[simp] theorem State.accessInReset_din (a : Access) : (s.accessInReset a).din = s.din := rfl
@[simp] theorem State.accessInReset_dout (a : Access) : (s.accessInReset a).dout = s.dout := rfl
@[simp] theorem State.accessInReset_opa (a : Access) : (s.accessInReset a).opa = s.opa := rfl
@[simp] theorem State.accessInReset_opb (a : Access) : (s.accessInReset a).opb = s.opb := rfl
@[simp] theorem State.accessInReset_res (a : Access) : (s.accessInReset a).res = s.res := rfl
@[simp] theorem State.accessInReset_keybuf (a : Access) : (s.accessInReset a).keybuf = s.keybuf := rfl
@[simp] theorem State.accessInReset_subkeys (a : Access) : (s.accessInReset a).subkeys = s.subkeys := rfl
@[simp] theorem State.accessInReset_keyWords (a : Access) : (s.accessInReset a).keyWords = s.keyWords := rfl
@[simp] theorem State.accessInReset_response (a : Access) :
    (s.accessInReset a).response = some { resp := if Config.freeResp s.draws then .error else .ok, rdata := if a.write then none else some (Config.freeValue s.draws) } := rfl
@[simp] theorem State.accessInReset_pins (a : Access) : (s.accessInReset a).pins = s.pins := rfl
@[simp] theorem State.accessInReset_draws (a : Access) : (s.accessInReset a).draws = s.draws + 1 := rfl
@[simp] theorem State.accessInReset_resets (a : Access) : (s.accessInReset a).resets = s.resets := rfl

@[simp] theorem State.withCommand_engine (v : Reg32) : (s.withCommand v).engine = .busy v 0 := rfl
@[simp] theorem State.withCommand_config (v : Reg32) : (s.withCommand v).config = s.config := rfl
@[simp] theorem State.withCommand_done (v : Reg32) : (s.withCommand v).done = false := rfl
@[simp] theorem State.withCommand_keyValid (v : Reg32) :
    (s.withCommand v).keyValid = (s.keyValid && !wordIsKs v) := rfl
@[simp] theorem State.withCommand_wbusy (v : Reg32) : (s.withCommand v).wbusy = s.wbusy := rfl
@[simp] theorem State.withCommand_err (v : Reg32) : (s.withCommand v).err = s.err := rfl
@[simp] theorem State.withCommand_irqEn (v : Reg32) : (s.withCommand v).irqEn = s.irqEn := rfl
@[simp] theorem State.withCommand_din (v : Reg32) : (s.withCommand v).din = s.din := rfl
@[simp] theorem State.withCommand_dout (v : Reg32) : (s.withCommand v).dout = s.dout := rfl
@[simp] theorem State.withCommand_opa (v : Reg32) : (s.withCommand v).opa = s.opa := rfl
@[simp] theorem State.withCommand_opb (v : Reg32) : (s.withCommand v).opb = s.opb := rfl
@[simp] theorem State.withCommand_res (v : Reg32) : (s.withCommand v).res = s.res := rfl
@[simp] theorem State.withCommand_keybuf (v : Reg32) : (s.withCommand v).keybuf = s.keybuf := rfl
@[simp] theorem State.withCommand_subkeys (v : Reg32) : (s.withCommand v).subkeys = s.subkeys := rfl
@[simp] theorem State.withCommand_keyWords (v : Reg32) : (s.withCommand v).keyWords = s.keyWords := rfl
@[simp] theorem State.withCommand_response (v : Reg32) : (s.withCommand v).response = s.response := rfl
@[simp] theorem State.withCommand_pins (v : Reg32) :
    (s.withCommand v).pins = CycleInput.quiet :: s.pins := rfl
@[simp] theorem State.withCommand_draws (v : Reg32) : (s.withCommand v).draws = s.draws := rfl
@[simp] theorem State.withCommand_resets (v : Reg32) : (s.withCommand v).resets = s.resets := rfl

/-! The reset edge (spec/70_reset_and_hazards.md R290): the values of State.reset, but for the host's list and the
two counters. -/

@[simp] theorem State.resetEdge_engine : s.resetEdge.engine = State.reset.engine := rfl
@[simp] theorem State.resetEdge_config : s.resetEdge.config = State.reset.config := rfl
@[simp] theorem State.resetEdge_done : s.resetEdge.done = State.reset.done := rfl
@[simp] theorem State.resetEdge_keyValid : s.resetEdge.keyValid = State.reset.keyValid := rfl
@[simp] theorem State.resetEdge_wbusy : s.resetEdge.wbusy = State.reset.wbusy := rfl
@[simp] theorem State.resetEdge_err : s.resetEdge.err = State.reset.err := rfl
@[simp] theorem State.resetEdge_irqEn : s.resetEdge.irqEn = State.reset.irqEn := rfl
@[simp] theorem State.resetEdge_din : s.resetEdge.din = State.reset.din := rfl
@[simp] theorem State.resetEdge_dout : s.resetEdge.dout = State.reset.dout := rfl
@[simp] theorem State.resetEdge_opa : s.resetEdge.opa = State.reset.opa := rfl
@[simp] theorem State.resetEdge_opb : s.resetEdge.opb = State.reset.opb := rfl
@[simp] theorem State.resetEdge_res : s.resetEdge.res = State.reset.res := rfl
@[simp] theorem State.resetEdge_keybuf : s.resetEdge.keybuf = State.reset.keybuf := rfl
@[simp] theorem State.resetEdge_subkeys : s.resetEdge.subkeys = State.reset.subkeys := rfl
@[simp] theorem State.resetEdge_keyWords : s.resetEdge.keyWords = State.reset.keyWords := rfl
@[simp] theorem State.resetEdge_response : s.resetEdge.response = State.reset.response := rfl
@[simp] theorem State.resetEdge_pins : s.resetEdge.pins = s.pins := rfl
@[simp] theorem State.resetEdge_draws : s.resetEdge.draws = s.draws := rfl
@[simp] theorem State.resetEdge_resets : s.resetEdge.resets = s.resets + 1 := rfl

/-! The fields of CONFIG, and what is computed from unchanged fields. -/

@[simp] theorem State.complete_wsel (c : ErrorKind) : (s.complete c).wsel = s.wsel := rfl
@[simp] theorem State.complete_width (c : ErrorKind) : (s.complete c).width = s.width := rfl
@[simp] theorem State.complete_rounds (c : ErrorKind) : (s.complete c).rounds = s.rounds := rfl
@[simp] theorem State.complete_keyLen (c : ErrorKind) : (s.complete c).keyLen = s.keyLen := rfl

@[simp] theorem State.acceptFor_wsel (n : Nat) (v : Reg32) : (s.acceptFor n v).wsel = s.wsel := rfl
@[simp] theorem State.acceptFor_width (n : Nat) (v : Reg32) : (s.acceptFor n v).width = s.width := rfl
@[simp] theorem State.acceptFor_rounds (n : Nat) (v : Reg32) : (s.acceptFor n v).rounds = s.rounds := rfl
@[simp] theorem State.acceptFor_keyLen (n : Nat) (v : Reg32) : (s.acceptFor n v).keyLen = s.keyLen := rfl

@[simp] theorem State.accept_wsel (v : Reg32) : (s.accept v).wsel = s.wsel := rfl
@[simp] theorem State.accept_width (v : Reg32) : (s.accept v).width = s.width := rfl
@[simp] theorem State.accept_rounds (v : Reg32) : (s.accept v).rounds = s.rounds := rfl
@[simp] theorem State.accept_keyLen (v : Reg32) : (s.accept v).keyLen = s.keyLen := rfl

@[simp] theorem State.runOn_wsel (v : Reg32) (n : Nat) : (s.runOn v n).wsel = s.wsel := rfl
@[simp] theorem State.runOn_width (v : Reg32) (n : Nat) : (s.runOn v n).width = s.width := rfl
@[simp] theorem State.runOn_rounds (v : Reg32) (n : Nat) : (s.runOn v n).rounds = s.rounds := rfl
@[simp] theorem State.runOn_keyLen (v : Reg32) (n : Nat) : (s.runOn v n).keyLen = s.keyLen := rfl

@[simp] theorem State.setRes_wsel (x : Reg128) : (s.setRes x).wsel = s.wsel := rfl
@[simp] theorem State.setRes_width (x : Reg128) : (s.setRes x).width = s.width := rfl
@[simp] theorem State.setRes_rounds (x : Reg128) : (s.setRes x).rounds = s.rounds := rfl
@[simp] theorem State.setRes_keyLen (x : Reg128) : (s.setRes x).keyLen = s.keyLen := rfl

@[simp] theorem State.setOperands_wsel (a b : Reg128) : (s.setOperands a b).wsel = s.wsel := rfl
@[simp] theorem State.setOperands_width (a b : Reg128) : (s.setOperands a b).width = s.width := rfl
@[simp] theorem State.setOperands_rounds (a b : Reg128) : (s.setOperands a b).rounds = s.rounds := rfl
@[simp] theorem State.setOperands_keyLen (a b : Reg128) : (s.setOperands a b).keyLen = s.keyLen := rfl

@[simp] theorem State.setDout_wsel (v : Vector Reg32 8) : (s.setDout v).wsel = s.wsel := rfl
@[simp] theorem State.setDout_width (v : Vector Reg32 8) : (s.setDout v).width = s.width := rfl
@[simp] theorem State.setDout_rounds (v : Vector Reg32 8) : (s.setDout v).rounds = s.rounds := rfl
@[simp] theorem State.setDout_keyLen (v : Vector Reg32 8) : (s.setDout v).keyLen = s.keyLen := rfl

@[simp] theorem State.setSchedule_wsel (ls ss : List Reg128) : (s.setSchedule ls ss).wsel = s.wsel := rfl
@[simp] theorem State.setSchedule_width (ls ss : List Reg128) : (s.setSchedule ls ss).width = s.width := rfl
@[simp] theorem State.setSchedule_rounds (ls ss : List Reg128) :
    (s.setSchedule ls ss).rounds = s.rounds := rfl
@[simp] theorem State.setSchedule_keyLen (ls ss : List Reg128) :
    (s.setSchedule ls ss).keyLen = s.keyLen := rfl

@[simp] theorem State.dropWrite_wsel : (s.dropWrite).wsel = s.wsel := rfl
@[simp] theorem State.dropWrite_width : (s.dropWrite).width = s.width := rfl
@[simp] theorem State.dropWrite_rounds : (s.dropWrite).rounds = s.rounds := rfl
@[simp] theorem State.dropWrite_keyLen : (s.dropWrite).keyLen = s.keyLen := rfl

@[simp] theorem State.writeStatus_wsel (b : Bool) (v : Reg32) : (s.writeStatus b v).wsel = s.wsel := rfl
@[simp] theorem State.writeStatus_width (b : Bool) (v : Reg32) : (s.writeStatus b v).width = s.width := rfl
@[simp] theorem State.writeStatus_rounds (b : Bool) (v : Reg32) : (s.writeStatus b v).rounds = s.rounds := rfl
@[simp] theorem State.writeStatus_keyLen (b : Bool) (v : Reg32) : (s.writeStatus b v).keyLen = s.keyLen := rfl

@[simp] theorem State.respond_wsel (r : BusResp) (d : Option Reg32) : (s.respond r d).wsel = s.wsel := rfl
@[simp] theorem State.respond_width (r : BusResp) (d : Option Reg32) : (s.respond r d).width = s.width := rfl
@[simp] theorem State.respond_rounds (r : BusResp) (d : Option Reg32) :
    (s.respond r d).rounds = s.rounds := rfl
@[simp] theorem State.respond_keyLen (r : BusResp) (d : Option Reg32) :
    (s.respond r d).keyLen = s.keyLen := rfl

@[simp] theorem State.respondFree_wsel (r : BusResp) : (s.respondFree r).wsel = s.wsel := rfl
@[simp] theorem State.respondFree_width (r : BusResp) : (s.respondFree r).width = s.width := rfl
@[simp] theorem State.respondFree_rounds (r : BusResp) : (s.respondFree r).rounds = s.rounds := rfl
@[simp] theorem State.respondFree_keyLen (r : BusResp) : (s.respondFree r).keyLen = s.keyLen := rfl

@[simp] theorem State.setIrqEn_wsel (v : Reg32) : (s.setIrqEn v).wsel = s.wsel := rfl
@[simp] theorem State.setIrqEn_width (v : Reg32) : (s.setIrqEn v).width = s.width := rfl
@[simp] theorem State.setIrqEn_rounds (v : Reg32) : (s.setIrqEn v).rounds = s.rounds := rfl
@[simp] theorem State.setIrqEn_keyLen (v : Reg32) : (s.setIrqEn v).keyLen = s.keyLen := rfl

@[simp] theorem State.setDin_wsel (k : Fin 8) (v : Reg32) : (s.setDin k v).wsel = s.wsel := rfl
@[simp] theorem State.setDin_width (k : Fin 8) (v : Reg32) : (s.setDin k v).width = s.width := rfl
@[simp] theorem State.setDin_rounds (k : Fin 8) (v : Reg32) : (s.setDin k v).rounds = s.rounds := rfl
@[simp] theorem State.setDin_keyLen (k : Fin 8) (v : Reg32) : (s.setDin k v).keyLen = s.keyLen := rfl

@[simp] theorem State.setOpa_wsel (k : Fin 4) (v : Reg32) : (s.setOpa k v).wsel = s.wsel := rfl
@[simp] theorem State.setOpa_width (k : Fin 4) (v : Reg32) : (s.setOpa k v).width = s.width := rfl
@[simp] theorem State.setOpa_rounds (k : Fin 4) (v : Reg32) : (s.setOpa k v).rounds = s.rounds := rfl
@[simp] theorem State.setOpa_keyLen (k : Fin 4) (v : Reg32) : (s.setOpa k v).keyLen = s.keyLen := rfl

@[simp] theorem State.setOpb_wsel (k : Fin 4) (v : Reg32) : (s.setOpb k v).wsel = s.wsel := rfl
@[simp] theorem State.setOpb_width (k : Fin 4) (v : Reg32) : (s.setOpb k v).width = s.width := rfl
@[simp] theorem State.setOpb_rounds (k : Fin 4) (v : Reg32) : (s.setOpb k v).rounds = s.rounds := rfl
@[simp] theorem State.setOpb_keyLen (k : Fin 4) (v : Reg32) : (s.setOpb k v).keyLen = s.keyLen := rfl

@[simp] theorem State.setKey_wsel (k : Fin 64) (v : Reg32) : (s.setKey k v).wsel = s.wsel := rfl
@[simp] theorem State.setKey_width (k : Fin 64) (v : Reg32) : (s.setKey k v).width = s.width := rfl
@[simp] theorem State.setKey_rounds (k : Fin 64) (v : Reg32) : (s.setKey k v).rounds = s.rounds := rfl
@[simp] theorem State.setKey_keyLen (k : Fin 64) (v : Reg32) : (s.setKey k v).keyLen = s.keyLen := rfl

@[simp] theorem State.beginCycle_wsel : (s.beginCycle).wsel = s.wsel := rfl
@[simp] theorem State.beginCycle_width : (s.beginCycle).width = s.width := rfl
@[simp] theorem State.beginCycle_rounds : (s.beginCycle).rounds = s.rounds := rfl
@[simp] theorem State.beginCycle_keyLen : (s.beginCycle).keyLen = s.keyLen := rfl

@[simp] theorem State.accessInReset_wsel (a : Access) : (s.accessInReset a).wsel = s.wsel := rfl
@[simp] theorem State.accessInReset_width (a : Access) : (s.accessInReset a).width = s.width := rfl
@[simp] theorem State.accessInReset_rounds (a : Access) : (s.accessInReset a).rounds = s.rounds := rfl
@[simp] theorem State.accessInReset_keyLen (a : Access) : (s.accessInReset a).keyLen = s.keyLen := rfl

@[simp] theorem State.withCommand_wsel (v : Reg32) : (s.withCommand v).wsel = s.wsel := rfl
@[simp] theorem State.withCommand_width (v : Reg32) : (s.withCommand v).width = s.width := rfl
@[simp] theorem State.withCommand_rounds (v : Reg32) : (s.withCommand v).rounds = s.rounds := rfl
@[simp] theorem State.withCommand_keyLen (v : Reg32) : (s.withCommand v).keyLen = s.keyLen := rfl

@[simp] theorem State.complete_keyByte (c : ErrorKind) (idx : Nat) :
    (s.complete c).keyByte idx = s.keyByte idx := rfl
@[simp] theorem State.complete_subkeyEntry (c : ErrorKind) (idx : Nat) :
    (s.complete c).subkeyEntry idx = s.subkeyEntry idx := rfl
@[simp] theorem State.acceptFor_keyByte (n : Nat) (v : Reg32) (idx : Nat) :
    (s.acceptFor n v).keyByte idx = s.keyByte idx := rfl
@[simp] theorem State.acceptFor_subkeyEntry (n : Nat) (v : Reg32) (idx : Nat) :
    (s.acceptFor n v).subkeyEntry idx = s.subkeyEntry idx := rfl
@[simp] theorem State.accept_keyByte (v : Reg32) (idx : Nat) : (s.accept v).keyByte idx = s.keyByte idx := rfl
@[simp] theorem State.accept_subkeyEntry (v : Reg32) (idx : Nat) :
    (s.accept v).subkeyEntry idx = s.subkeyEntry idx := rfl
@[simp] theorem State.runOn_keyByte (v : Reg32) (n : Nat) (idx : Nat) :
    (s.runOn v n).keyByte idx = s.keyByte idx := rfl
@[simp] theorem State.runOn_subkeyEntry (v : Reg32) (n : Nat) (idx : Nat) :
    (s.runOn v n).subkeyEntry idx = s.subkeyEntry idx := rfl
@[simp] theorem State.setRes_keyByte (x : Reg128) (idx : Nat) :
    (s.setRes x).keyByte idx = s.keyByte idx := rfl
@[simp] theorem State.setRes_subkeyEntry (x : Reg128) (idx : Nat) :
    (s.setRes x).subkeyEntry idx = s.subkeyEntry idx := rfl
@[simp] theorem State.setOperands_keyByte (a b : Reg128) (idx : Nat) :
    (s.setOperands a b).keyByte idx = s.keyByte idx := rfl
@[simp] theorem State.setOperands_subkeyEntry (a b : Reg128) (idx : Nat) :
    (s.setOperands a b).subkeyEntry idx = s.subkeyEntry idx := rfl
@[simp] theorem State.setDout_keyByte (v : Vector Reg32 8) (idx : Nat) :
    (s.setDout v).keyByte idx = s.keyByte idx := rfl
@[simp] theorem State.setDout_subkeyEntry (v : Vector Reg32 8) (idx : Nat) :
    (s.setDout v).subkeyEntry idx = s.subkeyEntry idx := rfl
@[simp] theorem State.setSchedule_keyByte (ls ss : List Reg128) (idx : Nat) :
    (s.setSchedule ls ss).keyByte idx = s.keyByte idx := rfl
@[simp] theorem State.dropWrite_keyByte (idx : Nat) : (s.dropWrite).keyByte idx = s.keyByte idx := rfl
@[simp] theorem State.dropWrite_subkeyEntry (idx : Nat) :
    (s.dropWrite).subkeyEntry idx = s.subkeyEntry idx := rfl
@[simp] theorem State.writeStatus_keyByte (b : Bool) (v : Reg32) (idx : Nat) :
    (s.writeStatus b v).keyByte idx = s.keyByte idx := rfl
@[simp] theorem State.writeStatus_subkeyEntry (b : Bool) (v : Reg32) (idx : Nat) :
    (s.writeStatus b v).subkeyEntry idx = s.subkeyEntry idx := rfl
@[simp] theorem State.respond_keyByte (r : BusResp) (d : Option Reg32) (idx : Nat) :
    (s.respond r d).keyByte idx = s.keyByte idx := rfl
@[simp] theorem State.respond_subkeyEntry (r : BusResp) (d : Option Reg32) (idx : Nat) :
    (s.respond r d).subkeyEntry idx = s.subkeyEntry idx := rfl
@[simp] theorem State.respondFree_keyByte (r : BusResp) (idx : Nat) :
    (s.respondFree r).keyByte idx = s.keyByte idx := rfl
@[simp] theorem State.respondFree_subkeyEntry (r : BusResp) (idx : Nat) :
    (s.respondFree r).subkeyEntry idx = s.subkeyEntry idx := rfl
@[simp] theorem State.setConfig_keyByte (v : Reg32) (idx : Nat) :
    (s.setConfig v).keyByte idx = s.keyByte idx := rfl
@[simp] theorem State.setConfig_subkeyEntry (v : Reg32) (idx : Nat) :
    (s.setConfig v).subkeyEntry idx = s.subkeyEntry idx := rfl
@[simp] theorem State.setIrqEn_keyByte (v : Reg32) (idx : Nat) :
    (s.setIrqEn v).keyByte idx = s.keyByte idx := rfl
@[simp] theorem State.setIrqEn_subkeyEntry (v : Reg32) (idx : Nat) :
    (s.setIrqEn v).subkeyEntry idx = s.subkeyEntry idx := rfl
@[simp] theorem State.setDin_keyByte (k : Fin 8) (v : Reg32) (idx : Nat) :
    (s.setDin k v).keyByte idx = s.keyByte idx := rfl
@[simp] theorem State.setDin_subkeyEntry (k : Fin 8) (v : Reg32) (idx : Nat) :
    (s.setDin k v).subkeyEntry idx = s.subkeyEntry idx := rfl
@[simp] theorem State.setOpa_keyByte (k : Fin 4) (v : Reg32) (idx : Nat) :
    (s.setOpa k v).keyByte idx = s.keyByte idx := rfl
@[simp] theorem State.setOpa_subkeyEntry (k : Fin 4) (v : Reg32) (idx : Nat) :
    (s.setOpa k v).subkeyEntry idx = s.subkeyEntry idx := rfl
@[simp] theorem State.setOpb_keyByte (k : Fin 4) (v : Reg32) (idx : Nat) :
    (s.setOpb k v).keyByte idx = s.keyByte idx := rfl
@[simp] theorem State.setOpb_subkeyEntry (k : Fin 4) (v : Reg32) (idx : Nat) :
    (s.setOpb k v).subkeyEntry idx = s.subkeyEntry idx := rfl
@[simp] theorem State.setKey_subkeyEntry (k : Fin 64) (v : Reg32) (idx : Nat) :
    (s.setKey k v).subkeyEntry idx = s.subkeyEntry idx := rfl
@[simp] theorem State.beginCycle_keyByte (idx : Nat) : (s.beginCycle).keyByte idx = s.keyByte idx := rfl
@[simp] theorem State.beginCycle_subkeyEntry (idx : Nat) :
    (s.beginCycle).subkeyEntry idx = s.subkeyEntry idx := rfl
@[simp] theorem State.accessInReset_keyByte (a : Access) (idx : Nat) :
    (s.accessInReset a).keyByte idx = s.keyByte idx := rfl
@[simp] theorem State.accessInReset_subkeyEntry (a : Access) (idx : Nat) :
    (s.accessInReset a).subkeyEntry idx = s.subkeyEntry idx := rfl
@[simp] theorem State.withCommand_keyByte (v : Reg32) (idx : Nat) :
    (s.withCommand v).keyByte idx = s.keyByte idx := rfl
@[simp] theorem State.withCommand_subkeyEntry (v : Reg32) (idx : Nat) :
    (s.withCommand v).subkeyEntry idx = s.subkeyEntry idx := rfl

end Sys2Proof.Machine
end

