-- ==== Sys2Proof/Laws/WordOps.lean ====
section
/-! SUPPORT. The word primitives in the terms of the library's bit vectors, and the little-endian
conversions. -/

namespace Sys2Proof.Machine

variable {w : Nat}

theorem addW_eq (a b : BitVec w) : addW a b = a + b := by
  apply BitVec.eq_of_toNat_eq; simp [addW]

theorem subW_eq (a b : BitVec w) : subW a b = a - b := by
  apply BitVec.eq_of_toNat_eq
  have hb := b.isLt
  rw [subW, BitVec.toNat_ofNat, BitVec.toNat_sub]
  congr 1
  omega

theorem xorW_eq (a b : BitVec w) : xorW a b = a ^^^ b := rfl

theorem ushiftRight_width (x : BitVec w) : x >>> w = 0#w := by
  apply BitVec.eq_of_toNat_eq
  simp [Nat.shiftRight_eq_div_pow, Nat.div_eq_of_lt x.isLt]

theorem rotlW_eq (x : BitVec w) (n : Nat) : rotlW x n = x.rotateLeft n := by
  unfold rotlW
  split
  · rename_i h
    simp [BitVec.rotateLeft, BitVec.rotateLeftAux, h, ushiftRight_width]
  · rfl

theorem rotrW_eq (x : BitVec w) (n : Nat) : rotrW x n = x.rotateRight n := by
  unfold rotrW
  split
  · rename_i h
    simp [BitVec.rotateRight, BitVec.rotateRightAux, h]
  · rfl

/-- Bit k of a left rotation, the amount reduced modulo the width (spec/40_word_alu.md R122). -/
theorem getLsbD_rotateLeft_mod {w : Nat} (x : BitVec w) (n k : Nat) (hk : k < w) :
    (x.rotateLeft n).getLsbD k = x.getLsbD ((k + w - n % w) % w) := by
  have hm := Nat.mod_lt n (by omega : 0 < w)
  rw [BitVec.getLsbD_rotateLeft]
  generalize n % w = m at *
  rw [Bool.cond_decide]
  split
  · rw [Nat.mod_eq_of_lt (by omega)]; congr 1; omega
  · rw [decide_eq_true hk, show k + w - m = (k - m) + w by omega, Nat.add_mod_right,
      Nat.mod_eq_of_lt (by omega)]
    simp

/-- Bit k of a right rotation, the amount reduced modulo the width (spec/40_word_alu.md R123). -/
theorem getLsbD_rotateRight_mod {w : Nat} (x : BitVec w) (n k : Nat) (hk : k < w) :
    (x.rotateRight n).getLsbD k = x.getLsbD ((k + n % w) % w) := by
  have hm := Nat.mod_lt n (by omega : 0 < w)
  rw [BitVec.getLsbD_rotateRight]
  generalize n % w = m at *
  rw [Bool.cond_decide]
  split
  · rw [Nat.mod_eq_of_lt (by omega)]; congr 1; omega
  · rw [decide_eq_true hk, show k + m = (k - (w - m)) + w by omega, Nat.add_mod_right,
      Nat.mod_eq_of_lt (by omega)]
    simp

theorem leNat_lt (bs : List Byte) : leNat bs < 2 ^ (8 * bs.length) := by
  induction bs with
  | nil => simp [leNat]
  | cons b bs ih =>
    have hb := b.isLt
    have h : 2 ^ (8 * (b :: bs).length) = 256 * 2 ^ (8 * bs.length) := by
      rw [List.length_cons, Nat.mul_add, Nat.pow_add]; omega
    simp only [leNat]
    omega

/-- The bytes of the number `leNat bs` are `bs`. -/
theorem leNat_byte (bs : List Byte) (k : Nat) (hk : k < bs.length) :
    leNat bs / 2 ^ (8 * k) % 256 = (bs[k]).toNat := by
  induction bs generalizing k with
  | nil => simp at hk
  | cons b bs ih =>
    have hb := b.isLt
    cases k with
    | zero => simp only [leNat, List.getElem_cons_zero]; omega
    | succ k =>
      have h : 2 ^ (8 * (k + 1)) = 256 * 2 ^ (8 * k) := by
        rw [Nat.mul_add, Nat.pow_add]; omega
      have h2 : (b.toNat + 256 * leNat bs) / 256 = leNat bs := by omega
      simp only [leNat, List.getElem_cons_succ]
      rw [h, ← Nat.div_div_eq_div_mul, h2]
      exact ih k (by simpa using hk)

theorem wordBytes_length (u : Nat) (x : BitVec w) : (wordBytes u x).length = u := by simp [wordBytes]

theorem wordBytes_getElem (u : Nat) (x : BitVec w) (k : Nat) (hk : k < (wordBytes u x).length) :
    (wordBytes u x)[k] = x.extractLsb' (8 * k) 8 := by simp [wordBytes]

/-- The low bytes of a word make up the word reduced to them. -/
theorem leNat_wordBytes (u : Nat) (x : BitVec w) : leNat (wordBytes u x) = x.toNat % 2 ^ (8 * u) := by
  have key : ∀ (u s : Nat), leNat ((List.range u).map fun k => x.extractLsb' (8 * (s + k)) 8) =
      x.toNat / 2 ^ (8 * s) % 2 ^ (8 * u) := by
    intro u
    induction u with
    | zero => intro s; simp [leNat, Nat.mod_one]
    | succ u ih =>
      intro s
      have ih' := ih (s + 1)
      rw [List.range_succ_eq_map]
      simp only [List.map_cons, List.map_map, leNat, Nat.add_zero]
      have e : ((fun k => x.extractLsb' (8 * (s + k)) 8) ∘ Nat.succ) =
          fun k => x.extractLsb' (8 * (s + 1 + k)) 8 := by
        funext k; simp only [Function.comp, Nat.succ_eq_add_one]; congr 2; omega
      rw [e, ih', BitVec.extractLsb'_toNat]
      have h1 : 2 ^ (8 * (s + 1)) = 2 ^ (8 * s) * 256 := by rw [Nat.mul_add, Nat.pow_add]
      have h2 : 2 ^ (8 * (u + 1)) = 256 * 2 ^ (8 * u) := by rw [Nat.mul_add, Nat.pow_add]; omega
      rw [h1, h2, ← Nat.div_div_eq_div_mul, Nat.mod_mul, Nat.shiftRight_eq_div_pow]
  simpa [wordBytes] using key u 0

/-- le_w undoes bytes_w on whole words. -/
theorem leWord_wordBytes {u : Nat} (h : w = 8 * u) (x : BitVec w) : leWord (wordBytes u x) = x := by
  apply BitVec.eq_of_toNat_eq
  subst h
  simp [leWord, leNat_wordBytes]

/-- bytes_w undoes le_w on u-byte sequences. -/
theorem wordBytes_leWord {u : Nat} (h : w = 8 * u) (bs : List Byte) (hl : bs.length = u) :
    wordBytes u (leWord bs : BitVec w) = bs := by
  subst h
  apply List.ext_getElem
  · simp [wordBytes, hl]
  · intro k h1 h2
    apply BitVec.eq_of_toNat_eq
    have hlt := leNat_lt bs
    rw [hl] at hlt
    rw [wordBytes_getElem, BitVec.extractLsb'_toNat, Nat.shiftRight_eq_div_pow]
    simp only [leWord, BitVec.toNat_ofNat, Nat.mod_eq_of_lt hlt]
    exact leNat_byte bs k h2

theorem width_bits_eq (w : Width) : w.bits = 8 * w.bytes := by cases w <;> rfl

theorem width_bits_le (w : Width) : w.bits ≤ 128 := by cases w <;> decide

theorem width_bytes_le (w : Width) : w.bytes ≤ 16 := by cases w <;> decide

theorem width_bytes_pos (w : Width) : 2 ≤ w.bytes := by cases w <;> decide

end Sys2Proof.Machine
end

