-- ==== Sys2Proof/Laws/Operands.lean ====
section
/-! SUPPORT. The laws of the operand forms: the width in CONFIG.WSEL, the lanes of 32-bit registers, the
quarters of 128-bit registers, and the block lanes. -/

namespace Sys2Proof.Machine

/-! The width (spec/30_encoding.md R93). -/

theorem widthOfWsel_none_iff (n : Nat) : widthOfWsel n = none ↔ 3 < n := by
  match n with
  | 0 | 1 | 2 | 3 => simp [widthOfWsel]
  | n + 4 => simp [widthOfWsel]

theorem widthOfWsel_bits {n : Nat} {w : Width} (h : widthOfWsel n = some w) :
    n ≤ 3 ∧ w.bits = 16 * 2 ^ n ∧ w.bytes = 2 * 2 ^ n := by
  match n with
  | 0 | 1 | 2 | 3 =>
    simp only [widthOfWsel, Option.some.injEq] at h
    subst h
    simp [Width.bits, Width.bytes]
  | n + 4 => simp [widthOfWsel] at h

theorem width_none_iff (s : State) : s.width = none ↔ 3 < s.wsel := widthOfWsel_none_iff _

theorem width_bits {s : State} {w : Width} (h : s.width = some w) :
    s.wsel ≤ 3 ∧ w.bits = 16 * 2 ^ s.wsel ∧ w.bytes = 2 * 2 ^ s.wsel := widthOfWsel_bits h

theorem width_of_wsel {s : State} (h : s.wsel ≤ 3) : ∃ w, s.width = some w :=
  Option.ne_none_iff_exists'.mp fun hn => by
    have := (width_none_iff s).mp hn
    omega

/-- A legal WSEL has a width, w = 16 << WSEL. -/
theorem exists_width {s : State} (h : s.wsel ≤ 3) :
    ∃ w, s.width = some w ∧ w.bits = 16 * 2 ^ s.wsel ∧ w.bytes = 2 * 2 ^ s.wsel := by
  obtain ⟨w, hw⟩ := width_of_wsel h
  exact ⟨w, hw, (width_bits hw).2⟩

/-! The lanes of a 32-bit register (spec/20_memory.md R66). -/

theorem laneByte_laneReg (b0 b1 b2 b3 : Byte) (m : Nat) (hm : m < 4) :
    laneByte (laneReg b0 b1 b2 b3) m = [b0, b1, b2, b3].getD m 0 := by
  have : m = 0 ∨ m = 1 ∨ m = 2 ∨ m = 3 := by omega
  rcases this with rfl | rfl | rfl | rfl <;>
    · apply BitVec.eq_of_getLsbD_eq
      intro i hi
      simp only [laneByte, laneReg, BitVec.getLsbD_extractLsb', BitVec.getLsbD_append, List.getD_cons_zero,
        List.getD_cons_succ, hi, decide_true, Bool.true_and]
      repeat' split
      all_goals first | omega | (congr 1; try omega)

theorem laneReg_laneByte (v : Reg32) :
    laneReg (laneByte v 0) (laneByte v 1) (laneByte v 2) (laneByte v 3) = v := by
  apply BitVec.eq_of_getLsbD_eq
  intro i hi
  simp only [laneByte, laneReg, BitVec.getLsbD_extractLsb', BitVec.getLsbD_append]
  repeat' split
  · simp_all
  all_goals
    rw [decide_eq_true (by omega), Bool.true_and]
    congr 1
    omega

/-! The eight registers of a 32-byte array (spec/20_memory.md R66). -/

theorem blockByte_blockRegs (bs : List Byte) (n : Nat) (hn : n < 32) :
    blockByte (blockRegs bs) n = bs.getD n 0 := by
  have h8 : n / 4 < 8 := by omega
  unfold blockByte blockRegs
  rw [Vector.getElem?_eq_getElem h8, Option.getD_some, Vector.getElem_ofFn,
    laneByte_laneReg _ _ _ _ _ (by omega)]
  have : n % 4 = 0 ∨ n % 4 = 1 ∨ n % 4 = 2 ∨ n % 4 = 3 := by omega
  rcases this with h | h | h | h <;> rw [h] <;>
    simp only [List.getD_cons_zero, List.getD_cons_succ] <;> congr 1 <;> omega

/-- Equal bytes make equal registers. -/
theorem blockRegs_ext {v v' : Vector Reg32 8} (h : ∀ n < 32, blockByte v n = blockByte v' n) : v = v' := by
  apply Vector.ext
  intro k hk
  have e : ∀ m < 4, laneByte v[k] m = laneByte v'[k] m := by
    intro m hm
    have := h (4 * k + m) (by omega)
    unfold blockByte at this
    rw [show (4 * k + m) / 4 = k by omega, show (4 * k + m) % 4 = m by omega,
      Vector.getElem?_eq_getElem hk, Vector.getElem?_eq_getElem hk] at this
    exact this
  rw [← laneReg_laneByte v[k], ← laneReg_laneByte v'[k], e 0 (by omega), e 1 (by omega), e 2 (by omega),
    e 3 (by omega)]

/-! The quarters of a 128-bit register (spec/20_memory.md R67). -/

theorem quarter_getLsbD (x : Reg128) (k i : Nat) :
    (quarter x k).getLsbD i = (decide (i < 32) && x.getLsbD (32 * k + i)) := by
  simp [quarter, BitVec.getLsbD_extractLsb']

theorem quarter_setQuarter (x : Reg128) (k j : Fin 4) (v : Reg32) :
    quarter (setQuarter x k v) j = if j = k then v else quarter x j := by
  apply BitVec.eq_of_getLsbD_eq
  intro i hi
  rw [quarter_getLsbD]
  have hj := j.isLt
  have hj' : j = 0 ∨ j = 1 ∨ j = 2 ∨ j = 3 := by omega
  rcases hj' with rfl | rfl | rfl | rfl <;>
    · simp only [setQuarter, BitVec.getLsbD_append, hi, decide_true, Bool.true_and, Fin.val_zero, Fin.val_one,
        Fin.val_two, Nat.mul_zero, Nat.zero_add, if_true, eq_comm (b := k)]
      repeat' split
      all_goals first | omega | skip
      all_goals
        simp_all
        try first | (congr 1; omega) | (rw [show 96 + i - 32 - 32 - 32 = i by omega, BitVec.getLsbD_eq_getElem hi])

theorem getLsbD_quarter (x : Reg128) (n : Nat) : x.getLsbD n = (quarter x (n / 32)).getLsbD (n % 32) := by
  rw [quarter_getLsbD, decide_eq_true (Nat.mod_lt _ (by omega)), Nat.div_add_mod]; rfl

/-- Writing one register of a 128-bit value changes exactly its 32 bits (spec/20_memory.md R67). -/
theorem setQuarter_getLsbD (x : Reg128) (k : Fin 4) (v : Reg32) (n : Nat) (h : n < 128) :
    (setQuarter x k v).getLsbD n = if n / 32 = k.val then v.getLsbD (n % 32) else x.getLsbD n := by
  rw [getLsbD_quarter]
  have := quarter_setQuarter x k ⟨n / 32, by omega⟩ v
  simp only at this
  rw [this]
  by_cases hk : n / 32 = k.val
  · rw [if_pos (Fin.ext hk), if_pos hk]
  · rw [if_neg (fun h => hk (congrArg Fin.val h)), if_neg hk, ← getLsbD_quarter]

/-! Zero extension (spec/00_scope.md R10). -/

theorem zext128_toNat {w : Width} (x : Word w) : (zext128 x).toNat = x.toNat := by
  have h := x.isLt
  have := Nat.pow_le_pow_right (show 0 < 2 by omega) (width_bits_le w)
  simp [zext128]; omega

theorem zext128_getLsbD {w : Width} (x : Word w) (k) : (zext128 x).getLsbD k = x.getLsbD k := by
  simp only [zext128, BitVec.getLsbD_setWidth]
  have := width_bits_le w
  by_cases h : k < 128
  · simp [h]
  · rw [BitVec.getLsbD_of_ge x k (by omega)]; simp

/-! The fields of CONFIG (spec/10_state.md R25). -/

/-- The mask of a CONFIG write keeps the three fields. -/
theorem configMask_fields (v : Reg32) :
    (v &&& 0x1FF1FF07#32).extractLsb' 0 3 = v.extractLsb' 0 3 ∧
    (v &&& 0x1FF1FF07#32).extractLsb' 8 9 = v.extractLsb' 8 9 ∧
    (v &&& 0x1FF1FF07#32).extractLsb' 20 9 = v.extractLsb' 20 9 := by
  refine ⟨?_, ?_, ?_⟩ <;>
  · apply BitVec.eq_of_getLsbD_eq
    intro i hi
    interval_cases i <;> simp

/-- A masked CONFIG value as the sum of its three fields. -/
theorem configMask_value (v : Reg32) :
    v &&& 0x1FF1FF07#32 =
      BitVec.ofNat 32 (v.toNat % 2 ^ 3 + v.toNat / 2 ^ 8 % 2 ^ 9 * 2 ^ 8 + v.toNat / 2 ^ 20 % 2 ^ 9 * 2 ^ 20) := by
  apply BitVec.eq_of_getLsbD_eq
  intro i hi
  have e : v.toNat % 2 ^ 3 + v.toNat / 2 ^ 8 % 2 ^ 9 * 2 ^ 8 + v.toNat / 2 ^ 20 % 2 ^ 9 * 2 ^ 20 =
      2 ^ 20 * (v.toNat / 2 ^ 20 % 2 ^ 9) + (2 ^ 8 * (v.toNat / 2 ^ 8 % 2 ^ 9) + v.toNat % 2 ^ 3) := by ring
  have e2 : v.toNat % 2 ^ 3 < 2 ^ 8 := by omega
  have e3 : 2 ^ 8 * (v.toNat / 2 ^ 8 % 2 ^ 9) + v.toNat % 2 ^ 3 < 2 ^ 20 := by omega
  rw [e, BitVec.getLsbD_and, BitVec.getLsbD_ofNat, BitVec.getLsbD_ofNat,
    Nat.testBit_two_pow_mul_add _ e3, Nat.testBit_two_pow_mul_add _ e2]
  simp only [Nat.testBit_mod_two_pow, Nat.testBit_div_two_pow]
  interval_cases i <;> simp [BitVec.getLsbD] <;> intro _ <;> decide

end Sys2Proof.Machine
end

