-- ==== Sys2Proof/Laws/Bus.lean ====
section
/-! SUPPORT. What a bus transaction can do. -/

namespace Sys2Proof.Machine

/-! The engine's state as the bus sees it. -/

theorem busy_idle {s : State} (h : s.engine = .idle) : s.busy = false := by simp [State.busy, h]

theorem busy_busy {s : State} {v : Reg32} {n : Nat} (h : s.engine = .busy v n) : s.busy = true := by
  simp [State.busy, h]

theorem busy_iff (s : State) : s.busy = true ↔ ∃ v n, s.engine = .busy v n := by
  unfold State.busy
  cases s.engine with
  | idle => simp
  | busy v n => simp

theorem whenIdle_idle {s : State} (h : s.engine = .idle) (f : State → State) : s.whenIdle f = f s := by
  simp [State.whenIdle, h]

theorem whenIdle_busy {s : State} {v : Reg32} {n : Nat} (h : s.engine = .busy v n) (f : State → State) :
    s.whenIdle f = s.dropWrite := by
  simp [State.whenIdle, h]

/-- A write the engine may drop either lands, the engine being idle, or only sets WBUSY. -/
theorem whenIdle_cases (s : State) (f : State → State) :
    (s.engine = .idle ∧ s.whenIdle f = f s) ∨ (s.busy = true ∧ s.whenIdle f = s.dropWrite) := by
  unfold State.whenIdle State.busy
  cases s.engine with
  | idle => exact .inl ⟨rfl, rfl⟩
  | busy v n => exact .inr ⟨rfl, rfl⟩

/-! The register map (spec/10_state.md R23). -/

/-- The register at its own offset. -/
theorem regAt_regOffset (r : Reg) : regAt (regOffset r) = some r := by
  cases r with
  | id => rfl
  | config => rfl
  | cmd => rfl
  | status => rfl
  | irqEn => rfl
  | din k => revert k; decide
  | dout k => revert k; decide
  | opa k => revert k; decide
  | opb k => revert k; decide
  | res k => revert k; decide
  | pconst k => revert k; decide
  | qconst k => revert k; decide
  | key k => revert k; decide
  | swin i q =>
    have hi := i.isLt
    have hq := q.isLt
    have e : (regOffset (.swin i q)).toNat = 0x1000 + 16 * i.val + 4 * q.val := by
      simp only [regOffset, BitVec.toNat_ofNat]; omega
    unfold regAt
    rw [e]
    have h1 : (0x1000 + 16 * i.val + 4 * q.val - 0x1000) / 16 = i.val := by omega
    have h2 : (0x1000 + 16 * i.val + 4 * q.val - 0x1000) % 16 / 4 = q.val := by omega
    have f1 : Fin.ofNat 512 i.val = i := by ext; simp
    have f2 : Fin.ofNat 4 q.val = q := by ext; simp
    simp only [h1, h2, f1, f2]
    repeat (rw [if_neg (by omega)])
    rw [if_pos (by omega)]

theorem regOffset_aligned (r : Reg) : (regOffset r).extractLsb' 0 2 = 0 := by
  cases r with
  | id => rfl
  | config => rfl
  | cmd => rfl
  | status => rfl
  | irqEn => rfl
  | din k => revert k; decide
  | dout k => revert k; decide
  | opa k => revert k; decide
  | opb k => revert k; decide
  | res k => revert k; decide
  | pconst k => revert k; decide
  | qconst k => revert k; decide
  | key k => revert k; decide
  | swin i q =>
    apply BitVec.eq_of_toNat_eq
    simp only [regOffset, BitVec.extractLsb'_toNat, BitVec.toNat_ofNat, Nat.shiftRight_zero, BitVec.ofNat_eq_ofNat]
    have := i.isLt
    have := q.isLt
    omega

/-- A 32-bit access at a register's offset reaches that register. -/
theorem accessTarget_regOffset (r : Reg) (wr : Bool) (v : Reg32) :
    accessTarget { addr := regOffset r, write := wr, size := 2, wdata := v } = some r := by
  simp [accessTarget, regOffset_aligned, regAt_regOffset]

/-! What a transaction can do. -/

theorem access_write {r : Reg} {a : Access} (h : accessTarget a = some r) (hw : a.write = true) (c : Bool)
    (s : State) : s.access c a = (s.writeReg c r a.wdata).respond .ok none := by
  simp [State.access, h, hw]

theorem access_read {r : Reg} {a : Access} (h : accessTarget a = some r) (hw : a.write = false) (c : Bool)
    (s : State) : s.access c a = s.readReg r := by
  simp [State.access, h, hw]

theorem access_refused {a : Access} (h : accessTarget a = none) (c : Bool) (s : State) :
    s.access c a = s.refuseAccess a := by
  simp [State.access, h]

/-- A read, or a refused access, changes only the response and the number of draws. -/
theorem readReg_cases (r : Reg) (s : State) :
    (s.busy = true ∧ regOpenWhileBusy r = true ∧ s.readReg r = s.respondFree .ok) ∨
    ((s.busy = false ∨ regOpenWhileBusy r = false) ∧ s.readReg r = s.respond .ok (some (s.regValue r))) := by
  unfold State.readReg
  cases hb : s.busy <;> cases hr : regOpenWhileBusy r <;> simp

theorem refuseAccess_cases (a : Access) (s : State) :
    (a.write = true ∧ s.refuseAccess a = s.respond .error none) ∨
    (a.write = false ∧ s.refuseAccess a = s.respondFree .error) := by
  unfold State.refuseAccess
  cases a.write <;> simp

/-- What a write of a register can do. -/
theorem writeReg_cases (c : Bool) (r : Reg) (v : Reg32) (s : State) :
    s.writeReg c r v = s ∨
    s.writeReg c r v = s.writeStatus c v ∨
    s.writeReg c r v = s.setIrqEn v ∨
    (s.busy = true ∧ s.writeReg c r v = s.dropWrite) ∨
    (s.engine = .idle ∧
      (s.writeReg c r v = s.setConfig v ∨ s.writeReg c r v = s.accept v ∨
        (∃ k, s.writeReg c r v = s.setDin k v) ∨ (∃ k, s.writeReg c r v = s.setOpa k v) ∨
        (∃ k, s.writeReg c r v = s.setOpb k v) ∨ ∃ k, s.writeReg c r v = s.setKey k v)) := by
  cases r with
  | id => exact .inl rfl
  | dout k => exact .inl rfl
  | res k => exact .inl rfl
  | pconst k => exact .inl rfl
  | qconst k => exact .inl rfl
  | swin i q => exact .inl rfl
  | status => exact .inr (.inl rfl)
  | irqEn => exact .inr (.inr (.inl rfl))
  | config =>
    rcases whenIdle_cases s (State.setConfig v) with ⟨hi, h⟩ | h
    · exact .inr (.inr (.inr (.inr ⟨hi, .inl h⟩)))
    · exact .inr (.inr (.inr (.inl h)))
  | cmd =>
    rcases whenIdle_cases s (State.accept v) with ⟨hi, h⟩ | h
    · exact .inr (.inr (.inr (.inr ⟨hi, .inr (.inl h)⟩)))
    · exact .inr (.inr (.inr (.inl h)))
  | din k =>
    rcases whenIdle_cases s (State.setDin k v) with ⟨hi, h⟩ | h
    · exact .inr (.inr (.inr (.inr ⟨hi, .inr (.inr (.inl ⟨k, h⟩))⟩)))
    · exact .inr (.inr (.inr (.inl h)))
  | opa k =>
    rcases whenIdle_cases s (State.setOpa k v) with ⟨hi, h⟩ | h
    · exact .inr (.inr (.inr (.inr ⟨hi, .inr (.inr (.inr (.inl ⟨k, h⟩)))⟩)))
    · exact .inr (.inr (.inr (.inl h)))
  | opb k =>
    rcases whenIdle_cases s (State.setOpb k v) with ⟨hi, h⟩ | h
    · exact .inr (.inr (.inr (.inr ⟨hi, .inr (.inr (.inr (.inr (.inl ⟨k, h⟩))))⟩)))
    · exact .inr (.inr (.inr (.inl h)))
  | key k =>
    rcases whenIdle_cases s (State.setKey k v) with ⟨hi, h⟩ | h
    · exact .inr (.inr (.inr (.inr ⟨hi, .inr (.inr (.inr (.inr (.inr ⟨k, h⟩))))⟩)))
    · exact .inr (.inr (.inr (.inl h)))

/-- What a transaction can do: it answers after a write of a register, or answers alone. -/
theorem access_cases (c : Bool) (a : Access) (s : State) :
    (∃ r, a.write = true ∧ accessTarget a = some r ∧
      s.access c a = (s.writeReg c r a.wdata).respond .ok none) ∨
    (∃ p d, s.access c a = s.respond p d) ∨
    ∃ p, s.access c a = s.respondFree p := by
  cases ht : accessTarget a with
  | none =>
    rw [access_refused ht]
    rcases refuseAccess_cases a s with ⟨-, h⟩ | ⟨-, h⟩
    · exact .inr (.inl ⟨_, _, h⟩)
    · exact .inr (.inr ⟨_, h⟩)
  | some r =>
    cases hw : a.write with
    | true => exact .inl ⟨r, rfl, rfl, access_write ht hw c s⟩
    | false =>
      rw [access_read ht hw]
      rcases readReg_cases r s with ⟨-, -, h⟩ | ⟨-, h⟩
      · exact .inr (.inr ⟨_, h⟩)
      · exact .inr (.inl ⟨_, _, h⟩)

/-! The same without naming the register, for properties every write keeps. -/

/-- A property that the response and the draws do not enter, and that every write of a register keeps, is
kept by every transaction. -/
theorem access_keeps (P : State → Prop) (c : Bool) (a : Access) (s : State)
    (hresp : ∀ t p d, P t → P (State.respond p d t)) (hfree : ∀ t p, P t → P (State.respondFree p t))
    (hwrite : ∀ r v, P s → P (s.writeReg c r v)) (h : P s) : P (s.access c a) := by
  rcases access_cases c a s with ⟨r, -, -, e⟩ | ⟨p, d, e⟩ | ⟨p, e⟩
  · rw [e]; exact hresp _ _ _ (hwrite _ _ h)
  · rw [e]; exact hresp _ _ _ h
  · rw [e]; exact hfree _ _ h

end Sys2Proof.Machine
end

