-- ==== Sys2Proof/Laws/Codec.lean ====
section
/-! SUPPORT. The bytes of words and blocks: what the serializer's conversions put where
(spec/41_serializer.md R150 to R154). -/

namespace Sys2Proof.Machine

theorem wordBytes_getElem? (w : Width) (x : Word w) (k : Nat) (h : k < w.bytes) :
    (wordBytes w.bytes x)[k]? = some (wordByte x k) := by
  rw [List.getElem?_eq_getElem (by simpa [wordBytes_length] using h), wordBytes_getElem]; rfl

/-- The byte lanes of a serialized block (spec/41_serializer.md R154). -/
theorem serBlock_byte (w : Width) (a b : Word w) (n : Nat) (hn : n < 32) :
    blockByte (serBlock w a b) n =
      if n < w.bytes then wordByte a n else if n < 2 * w.bytes then wordByte b (n - w.bytes) else 0 := by
  have hu := width_bytes_le w
  rw [serBlock, blockByte_blockRegs _ _ hn, List.getD_eq_getElem?_getD]
  split
  · rename_i h
    rw [List.getElem?_append_left (by simp [wordBytes_length]; omega),
      List.getElem?_append_left (by simpa [wordBytes_length] using h), wordBytes_getElem? _ _ _ h]
    rfl
  · split
    · rename_i h h2
      rw [List.getElem?_append_left (by simp [wordBytes_length]; omega),
        List.getElem?_append_right (by simp [wordBytes_length]; omega)]
      simp only [wordBytes_length]
      rw [wordBytes_getElem? _ _ _ (by omega)]; rfl
    · rename_i h h2
      rw [List.getElem?_append_right (by simp [wordBytes_length]; omega)]
      simp [wordBytes_length, List.getElem?_replicate]; split <;> rfl

/-- The bytes of a word read from DIN_B (spec/41_serializer.md R150). -/
theorem wordByte_dinBytes (s : State) (w : Width) (a k : Nat) (h : k < w.bytes) :
    wordByte (leWord (s.dinBytes a w.bytes) : Word w) k = s.dinByte (a + k) := by
  have hl : (s.dinBytes a w.bytes).length = w.bytes := by simp [State.dinBytes]
  have e := wordBytes_leWord (width_bits_eq w) _ hl
  have e2 := wordBytes_getElem? w (leWord (s.dinBytes a w.bytes)) k h
  rw [e] at e2
  simp [State.dinBytes, h] at e2
  exact e2.symm

theorem wordByte_above {w : Nat} (x : BitVec w) (k : Nat) (h : w ≤ 8 * k) : wordByte x k = 0 := by
  apply BitVec.eq_of_getLsbD_eq
  intro i hi
  simp [wordByte, BitVec.getLsbD_extractLsb', BitVec.getLsbD_of_ge x (8 * k + i) (by omega)]

theorem wordByte_zext128 {w : Width} (x : Word w) (k) : wordByte (zext128 x) k = wordByte x k := by
  apply BitVec.eq_of_getLsbD_eq
  intro i hi
  simp only [wordByte, BitVec.getLsbD_extractLsb', zext128_getLsbD]

theorem wordByte_setWidth {w : Width} (x : Reg128) (k) (h : k < w.bytes) :
    wordByte (x.setWidth w.bits) k = wordByte x k := by
  apply BitVec.eq_of_getLsbD_eq
  intro i hi
  have := width_bits_eq w
  simp only [wordByte, BitVec.getLsbD_extractLsb', BitVec.getLsbD_setWidth]
  simp [(by omega : 8 * k + i < w.bits)]

/-- Words with equal bytes are equal. -/
theorem word_ext {w : Width} (x y : Word w) (h : ∀ k < w.bytes, wordByte x k = wordByte y k) : x = y := by
  have hx := leWord_wordBytes (width_bits_eq w) x
  have hy := leWord_wordBytes (width_bits_eq w) y
  rw [← hx, ← hy]
  congr 1
  unfold wordBytes
  apply List.map_congr_left
  intro k hk
  exact h k (List.mem_range.mp hk)

/-- The block's words are the words with its bytes (spec/41_serializer.md R153). -/
theorem deserBlock_eq {s : State} {w : Width} {a b : Word w}
    (h : ∀ k < w.bytes, wordByte a k = s.dinByte k ∧ wordByte b k = s.dinByte (w.bytes + k)) :
    s.deserBlock w = (a, b) := by
  unfold State.deserBlock
  congr 1
  · apply word_ext; intro k hk; rw [wordByte_dinBytes _ _ _ _ hk, (h k hk).1]; simp
  · apply word_ext; intro k hk; rw [wordByte_dinBytes _ _ _ _ hk, (h k hk).2]

end Sys2Proof.Machine
end

