-- ==== Sys2Proof/Laws/Exec.lean ====
section
/-! SUPPORT. What each command can do: one lemma for each shared operation, and the lengths of the lists of
the key scheduler. -/

namespace Sys2Proof.Machine

/-! The key scheduler (spec/42_key_schedule.md). -/

theorem packByte_length {w : Nat} (u : Nat) (key : Nat → Byte) (k : Nat) (ls : List (BitVec w)) :
    (packByte u key k ls).length = ls.length := by simp [packByte]

theorem packLoop_length {w : Nat} (u : Nat) (key : Nat → Byte) (n : Nat) (ls : List (BitVec w)) :
    (packLoop u key n ls).length = ls.length := by
  induction n generalizing ls with
  | zero => rfl
  | succ n ih => rw [packLoop, ih, packByte_length]

theorem pack_length (w : Width) (b : Nat) (key : Nat → Byte) :
    (pack w b key).length = keyWordCount w.bytes b := by simp [pack, packLoop_length]

theorem sinitFrom_length {w : Nat} (q : BitVec w) (n : Nat) (x : BitVec w) :
    (sinitFrom q n x).length = n := by
  induction n generalizing x with
  | zero => rfl
  | succ n ih => simp [sinitFrom, ih]

theorem sinit_length (w : Width) (t : Nat) : (sinit w t).length = t := sinitFrom_length _ _ _

theorem mixStep_lengths {w : Nat} (m : MixState w) :
    (mixStep m).s.length = m.s.length ∧ (mixStep m).l.length = m.l.length := by simp [mixStep]

theorem mixLoop_lengths {w : Nat} (n : Nat) (m : MixState w) :
    (mixLoop n m).s.length = m.s.length ∧ (mixLoop n m).l.length = m.l.length := by
  induction n generalizing m with
  | zero => exact ⟨rfl, rfl⟩
  | succ n ih =>
    have h := ih (mixStep m)
    have h' := mixStep_lengths m
    exact ⟨h.1.trans h'.1, h.2.trans h'.2⟩

/-- A KS writes t subkeys. -/
theorem keySchedule_s_length (w : Width) (r b : Nat) (key : Nat → Byte) :
    (keySchedule w r b key).s.length = subkeyCount r := by
  rw [keySchedule, mix, (mixLoop_lengths _ _).1, sinit_length]

/-- A KS writes c key words. -/
theorem keySchedule_l_length (w : Width) (r b : Nat) (key : Nat → Byte) :
    (keySchedule w r b key).l.length = keyWordCount w.bytes b := by
  rw [keySchedule, mix, (mixLoop_lengths _ _).2, pack_length]

/-- The last iteration of the mixing loop comes off at the end as well as at the start. -/
theorem mixLoop_succ {w : Nat} (n : Nat) (m : MixState w) : mixLoop (n + 1) m = mixStep (mixLoop n m) := by
  induction n generalizing m with
  | zero => rfl
  | succ n ih => rw [mixLoop, ih, ← mixLoop]

theorem keyWordCount_le {u b : Nat} (hu : 2 ≤ u) (hb : b ≤ 256) : keyWordCount u b ≤ 128 := by
  unfold keyWordCount
  have : (b + u - 1) / u < 129 := by
    rw [Nat.div_lt_iff_lt_mul (by omega)]
    omega
  omega

/-! The commands. -/

theorem execNop_eq (s : State) : execNop s = .next (s.complete .none) := rfl

theorem execIllegal_eq (s : State) : execIllegal s = .next (s.complete .illegalCommand) := rfl

/-- What an ALU command can do. -/
theorem aluCommand_cases (op : {w : Nat} → BitVec w → BitVec w → BitVec w) (s : State) :
    (s.width = none ∧ aluCommand op s = s.complete .invalidWordSize) ∨
    ∃ w, s.width = some w ∧
      aluCommand op s = (s.setRes (zext128 (op (s.operandA w) (s.operandB w)))).complete .none := by
  unfold aluCommand
  cases h : s.width with
  | none => exact .inl ⟨rfl, rfl⟩
  | some w => exact .inr ⟨w, rfl, rfl⟩

theorem aluCommand_width {op : {w : Nat} → BitVec w → BitVec w → BitVec w} {s : State} {w : Width}
    (h : s.width = some w) :
    aluCommand op s = (s.setRes (zext128 (op (s.operandA w) (s.operandB w)))).complete .none := by
  simp only [aluCommand, h]

theorem aluCommand_no_width {op : {w : Nat} → BitVec w → BitVec w → BitVec w} {s : State}
    (h : s.width = none) : aluCommand op s = s.complete .invalidWordSize := by
  simp only [aluCommand, h, State.raise_eq_complete]

/-- What ENC and DEC can do. -/
theorem blockCommand_cases
    (f : {w : Nat} → (Nat → BitVec w) → Nat → BitVec w × BitVec w → BitVec w × BitVec w) (s : State) :
    (s.width = none ∧ blockCommand f s = s.complete .invalidWordSize) ∨
    (s.width ≠ none ∧ s.keyValid = false ∧ blockCommand f s = s.complete .noKeySchedule) ∨
    ∃ w, s.width = some w ∧ s.keyValid = true ∧
      blockCommand f s =
        (s.setDout (serBlock w (f (s.subkey w) s.rounds (s.deserBlock w)).1
          (f (s.subkey w) s.rounds (s.deserBlock w)).2)).complete .none := by
  unfold blockCommand
  cases h : s.width with
  | none => exact .inl ⟨rfl, rfl⟩
  | some w =>
    cases hk : s.keyValid with
    | false => exact .inr (.inl ⟨nofun, rfl, by simp⟩)
    | true => exact .inr (.inr ⟨w, rfl, rfl, by simp⟩)

theorem blockCommand_valid
    {f : {w : Nat} → (Nat → BitVec w) → Nat → BitVec w × BitVec w → BitVec w × BitVec w} {s : State}
    {w : Width} (h : s.width = some w) (hk : s.keyValid = true) :
    blockCommand f s =
      (s.setDout (serBlock w (f (s.subkey w) s.rounds (s.deserBlock w)).1
        (f (s.subkey w) s.rounds (s.deserBlock w)).2)).complete .none := by
  simp [blockCommand, h, hk]

/-- The state a successful KS leaves (spec/42_key_schedule.md R177). -/
def State.withSchedule (w : Width) (s : State) : State :=
  (s.setSchedule ((keySchedule w s.rounds s.keyLen s.keyByte).l.map zext128)
    ((keySchedule w s.rounds s.keyLen s.keyByte).s.map zext128)).complete .none

/-- What KS can do (spec/42_key_schedule.md R171, R177). -/
theorem execKs_cases (s : State) :
    (s.width = none ∧ execKs s = .next (s.complete .invalidWordSize)) ∨
    (s.width ≠ none ∧ 256 < s.keyLen ∧ execKs s = .next (s.complete .invalidKeySize)) ∨
    (s.width ≠ none ∧ s.keyLen ≤ 256 ∧ 255 < s.rounds ∧ execKs s = .next (s.complete .invalidRoundsCount)) ∨
    ∃ w, s.width = some w ∧ s.keyLen ≤ 256 ∧ s.rounds ≤ 255 ∧ execKs s = .next (s.withSchedule w) := by
  unfold execKs
  cases h : s.width with
  | none => exact .inl ⟨rfl, rfl⟩
  | some w =>
    by_cases hb : 256 < s.keyLen
    · exact .inr (.inl ⟨nofun, hb, by simp [hb]⟩)
    · by_cases hr : 255 < s.rounds
      · exact .inr (.inr (.inl ⟨nofun, by omega, hr, by simp [hb, hr]⟩))
      · exact .inr (.inr (.inr ⟨w, rfl, by omega, by omega, by simp [hb, hr, State.withSchedule]⟩))

theorem execKs_ok {s : State} {w : Width} (h : s.width = some w) (hb : s.keyLen ≤ 256) (hr : s.rounds ≤ 255) :
    execKs s = .next (s.withSchedule w) := by
  simp [execKs, h, Nat.not_lt.mpr hb, Nat.not_lt.mpr hr, State.withSchedule]

/-- What DESER can do. -/
theorem execDeser_cases (s : State) :
    (s.width = none ∧ execDeser s = .next (s.complete .invalidWordSize)) ∨
    ∃ w, s.width = some w ∧
      execDeser s = .next ((s.setOperands (zext128 (s.deserBlock w).1) (zext128 (s.deserBlock w).2)).complete .none) := by
  unfold execDeser
  cases h : s.width with
  | none => exact .inl ⟨rfl, rfl⟩
  | some w => exact .inr ⟨w, rfl, rfl⟩

/-- What SER can do. -/
theorem execSer_cases (s : State) :
    (s.width = none ∧ execSer s = .next (s.complete .invalidWordSize)) ∨
    ∃ w, s.width = some w ∧
      execSer s = .next ((s.setDout (serBlock w (s.operandA w) (s.operandB w))).complete .none) := by
  unfold execSer
  cases h : s.width with
  | none => exact .inl ⟨rfl, rfl⟩
  | some w => exact .inr ⟨w, rfl, rfl⟩

/-- Every command ends in `complete` after the writes of its body. -/
theorem exec_cases (i : Instr) (s : State) :
    (∃ c, exec i s = .next (s.complete c)) ∨
    (∃ x, exec i s = .next ((s.setRes x).complete .none)) ∨
    (∃ v, exec i s = .next ((s.setDout v).complete .none)) ∨
    (∃ a b, exec i s = .next ((s.setOperands a b).complete .none)) ∨
    ∃ w, s.width = some w ∧ s.keyLen ≤ 256 ∧ s.rounds ≤ 255 ∧ i = .ks ∧ exec i s = .next (s.withSchedule w) := by
  cases i with
  | nop => exact .inl ⟨_, rfl⟩
  | ks =>
    rcases execKs_cases s with ⟨-, h⟩ | ⟨-, -, h⟩ | ⟨-, -, -, h⟩ | ⟨w, hw, hb, hr, h⟩
    · exact .inl ⟨_, h⟩
    · exact .inl ⟨_, h⟩
    · exact .inl ⟨_, h⟩
    · exact .inr (.inr (.inr (.inr ⟨w, hw, hb, hr, rfl, h⟩)))
  | enc =>
    rcases blockCommand_cases fwd s with ⟨-, h⟩ | ⟨-, -, h⟩ | ⟨w, -, -, h⟩
    · exact .inl ⟨_, congrArg _ h⟩
    · exact .inl ⟨_, congrArg _ h⟩
    · exact .inr (.inr (.inl ⟨_, congrArg _ h⟩))
  | dec =>
    rcases blockCommand_cases inv s with ⟨-, h⟩ | ⟨-, -, h⟩ | ⟨w, -, -, h⟩
    · exact .inl ⟨_, congrArg _ h⟩
    · exact .inl ⟨_, congrArg _ h⟩
    · exact .inr (.inr (.inl ⟨_, congrArg _ h⟩))
  | add =>
    rcases aluCommand_cases addW s with ⟨-, h⟩ | ⟨w, -, h⟩
    · exact .inl ⟨_, congrArg _ h⟩
    · exact .inr (.inl ⟨_, congrArg _ h⟩)
  | sub =>
    rcases aluCommand_cases subW s with ⟨-, h⟩ | ⟨w, -, h⟩
    · exact .inl ⟨_, congrArg _ h⟩
    · exact .inr (.inl ⟨_, congrArg _ h⟩)
  | xor =>
    rcases aluCommand_cases xorW s with ⟨-, h⟩ | ⟨w, -, h⟩
    · exact .inl ⟨_, congrArg _ h⟩
    · exact .inr (.inl ⟨_, congrArg _ h⟩)
  | rotl =>
    rcases aluCommand_cases (fun a b => rotlW a b.toNat) s with ⟨-, h⟩ | ⟨w, -, h⟩
    · exact .inl ⟨_, congrArg _ h⟩
    · exact .inr (.inl ⟨_, congrArg _ h⟩)
  | rotr =>
    rcases aluCommand_cases (fun a b => rotrW a b.toNat) s with ⟨-, h⟩ | ⟨w, -, h⟩
    · exact .inl ⟨_, congrArg _ h⟩
    · exact .inr (.inl ⟨_, congrArg _ h⟩)
  | deser =>
    rcases execDeser_cases s with ⟨-, h⟩ | ⟨w, -, h⟩
    · exact .inl ⟨_, h⟩
    · exact .inr (.inr (.inr (.inl ⟨_, _, h⟩)))
  | ser =>
    rcases execSer_cases s with ⟨-, h⟩ | ⟨w, -, h⟩
    · exact .inl ⟨_, h⟩
    · exact .inr (.inr (.inl ⟨_, h⟩))

end Sys2Proof.Machine
end

