-- ==== Sys2Proof/Laws/Step.lean ====
section
/-! SUPPORT. What a step can do: reset, or the engine's edge and then the bus's. -/

namespace Sys2Proof.Machine

theorem nextInput_cons {s : State} {inp : CycleInput} {rest : List CycleInput} (h : s.pins = inp :: rest) :
    s.nextInput = inp := by simp [State.nextInput, h]

theorem nextInput_nil {s : State} (h : s.pins = []) : s.nextInput = CycleInput.quiet := by
  simp [State.nextInput, h]

theorem completesNow_iff (s : State) : s.completesNow = true ↔ ∃ v, s.engine = .busy v 0 := by
  unfold State.completesNow
  cases s.engine with
  | idle => simp
  | busy v n => simp

theorem step_reset {s : State} (h : s.nextInput.rst = true) :
    step s = .next (s.beginCycle.resetCycle s.nextInput) := by
  simp [step, clockCycle, h]

theorem step_idle {s : State} (h : s.nextInput.rst = false) (he : s.engine = .idle) :
    step s = .next (s.beginCycle.busEdge false s.nextInput) := by
  simp [step, clockCycle, h, runCycle, engineEdge, he, State.completesNow]

theorem step_counts {s : State} {v : Reg32} {n : Nat} (h : s.nextInput.rst = false)
    (he : s.engine = .busy v (n + 1)) :
    step s = .next ((s.beginCycle.runOn v n).busEdge false s.nextInput) := by
  simp [step, clockCycle, h, runCycle, engineEdge, he, State.completesNow]

theorem step_completes {s : State} {v : Reg32} (h : s.nextInput.rst = false) (he : s.engine = .busy v 0)
    {t : State} (hx : execWord v s.beginCycle = .next t) :
    step s = .next (t.busEdge true s.nextInput) := by
  simp [step, clockCycle, h, runCycle, engineEdge, he, State.completesNow, hx]

/-- Every command word has a completion, which is that of a command or of an illegal word. -/
theorem execWord_cases (v : Reg32) (s : State) :
    (∃ i, decode v = .ok i ∧ execWord v s = exec i s) ∨
    ∃ e, decode v = .error e ∧ execWord v s = .next (s.complete .illegalCommand) := by
  unfold execWord
  cases h : decode v with
  | ok i => exact .inl ⟨i, rfl, rfl⟩
  | error e => exact .inr ⟨e, rfl, rfl⟩

theorem exec_next (i : Instr) (s : State) : ∃ t, exec i s = .next t := by
  rcases exec_cases i s with ⟨_, h⟩ | ⟨_, h⟩ | ⟨_, h⟩ | ⟨_, _, h⟩ | ⟨_, _, _, _, _, h⟩ <;> exact ⟨_, h⟩

theorem execWord_next (v : Reg32) (s : State) : ∃ t, execWord v s = .next t := by
  rcases execWord_cases v s with ⟨i, -, h⟩ | ⟨e, -, h⟩
  · rw [h]; exact exec_next i s
  · exact ⟨_, h⟩

/-- Everything a step can do: reset; or nothing, a count or a completion of the engine, then the bus. -/
theorem step_cases {s t : State} (h : step s = .next t) :
    (s.nextInput.rst = true ∧ t = s.beginCycle.resetCycle s.nextInput) ∨
    (s.nextInput.rst = false ∧
      ((s.engine = .idle ∧ t = s.beginCycle.busEdge false s.nextInput) ∨
       (∃ v n, s.engine = .busy v (n + 1) ∧
          t = (s.beginCycle.runOn v n).busEdge false s.nextInput) ∨
       ∃ v m, s.engine = .busy v 0 ∧ execWord v s.beginCycle = .next m ∧ t = m.busEdge true s.nextInput)) := by
  cases hr : s.nextInput.rst with
  | true =>
    rw [step_reset hr] at h
    cases h
    exact .inl ⟨rfl, rfl⟩
  | false =>
    refine .inr ⟨rfl, ?_⟩
    cases he : s.engine with
    | idle =>
      rw [step_idle hr he] at h
      cases h
      exact .inl ⟨rfl, rfl⟩
    | busy v n =>
      cases n with
      | succ n =>
        rw [step_counts hr he] at h
        cases h
        exact .inr (.inl ⟨v, n, rfl, rfl⟩)
      | zero =>
        obtain ⟨m, hm⟩ := execWord_next v s.beginCycle
        rw [step_completes hr he hm] at h
        cases h
        exact .inr (.inr ⟨v, m, rfl, hm, rfl⟩)

theorem busEdge_quiet (c : Bool) (inp : CycleInput) (s : State) (h : inp.access = none) :
    s.busEdge c inp = s := by simp [State.busEdge, h]

theorem busEdge_access (c : Bool) {inp : CycleInput} {a : Access} (s : State) (h : inp.access = some a) :
    s.busEdge c inp = s.access c a := by simp [State.busEdge, h]

end Sys2Proof.Machine
end

