-- ==== Sys2Proof/Laws/Host.lean ====
section
/-! SUPPORT. The host's writes and reads of one register, as the operations they run. -/

namespace Sys2Proof.Machine

/-- A 32-bit write of a register is answered with OK after the register's own effect. -/
theorem access_hostWrite (s : State) (c : Bool) (r : Reg) (v : Reg32) :
    s.access c (hostWrite r v) = (s.writeReg c r v).respond .ok none :=
  access_write (accessTarget_regOffset r true v) rfl c s

/-- A 32-bit read of a register. -/
theorem access_hostRead (s : State) (c : Bool) (r : Reg) : s.access c (hostRead r) = s.readReg r :=
  access_read (accessTarget_regOffset r false 0) rfl c s

/-- A write the busy engine would drop lands while the engine is idle. -/
theorem access_hostWrite_idle {s : State} (hi : s.engine = .idle) (c : Bool) (r : Reg) (v : Reg32)
    (f : State → State) (h : s.writeReg c r v = s.whenIdle f) :
    s.access c (hostWrite r v) = (f s).respond .ok none := by
  rw [access_hostWrite, h, whenIdle_idle hi]

/-- While the engine is idle a read shows the register's value. -/
theorem readReg_idle {s : State} (hi : s.engine = .idle) (r : Reg) :
    s.readReg r = s.respond .ok (some (s.regValue r)) := by
  simp [State.readReg, busy_idle hi]

/-- Read-only registers ignore writes (spec/20_memory.md R65). -/
theorem writeReg_readOnly {r : Reg} (h : r.isReadOnly) (c : Bool) (v : Reg32) (s : State) :
    s.writeReg c r v = s := by
  rcases h with rfl | ⟨k, rfl⟩ | ⟨k, rfl⟩ | ⟨k, rfl⟩ | ⟨k, rfl⟩ | ⟨i, q, rfl⟩ <;> rfl

theorem isOpen_iff (r : Reg) : r.isOpen ↔ regOpenWhileBusy r = true := by
  cases r <;> simp [Reg.isOpen, regOpenWhileBusy]

/-- No transaction changes the host's coming inputs. -/
theorem access_pins (s : State) (c : Bool) (a : Access) : (s.access c a).pins = s.pins := by
  rcases access_cases c a s with ⟨r, -, -, e⟩ | ⟨p, d, e⟩ | ⟨p, e⟩
  · rw [e]
    rcases writeReg_cases c r a.wdata s with
      h | h | h | ⟨-, h⟩ | ⟨hi, h | h | ⟨k, h⟩ | ⟨k, h⟩ | ⟨k, h⟩ | ⟨k, h⟩⟩ <;> rw [h] <;> simp
  · rw [e]; simp
  · rw [e]; simp

/-- What a KEY write leaves in KEYBUF (spec/10_state.md R40). -/
theorem setKey_keyByte (k : Fin 64) (v : Reg32) (s : State) (n : Nat) :
    (s.setKey k v).keyByte n =
      if 4 * k.val ≤ n ∧ n < 4 * k.val + 4 then laneByte v (n - 4 * k.val) else s.keyByte n := by
  simp only [State.keyByte, State.setKey, memLookup_memWriteList, List.length_cons, List.length_nil, Nat.zero_add,
    Nat.reduceAdd]
  split
  · rename_i h
    have : n - 4 * k.val = 0 ∨ n - 4 * k.val = 1 ∨ n - 4 * k.val = 2 ∨ n - 4 * k.val = 3 := by omega
    rcases this with h | h | h | h <;> rw [h] <;> rfl
  · rfl

/-- What a DIN write leaves in DIN_B (spec/10_state.md R35). -/
theorem setDin_dinByte (k : Fin 8) (v : Reg32) (s : State) (n : Nat) (hn : n < 32) :
    (s.setDin k v).dinByte n = if n / 4 = k.val then laneByte v (n % 4) else s.dinByte n := by
  have h8 : n / 4 < 8 := by omega
  simp only [State.dinByte, State.setDin, blockByte, Vector.getElem?_eq_getElem h8, Option.getD_some]
  rw [Vector.getElem_set]
  simp only [eq_comm (a := k.val)]
  split <;> rfl

/-- Register k of DOUT shows four bytes of DOUT_B (spec/10_state.md R36). -/
theorem laneByte_dout (s : State) (k : Fin 8) (m : Nat) (hm : m < 4) :
    laneByte (s.regValue (.dout k)) m = s.doutByte (4 * k.val + m) := by
  have hk := k.isLt
  simp only [State.regValue, State.doutByte, blockByte]
  rw [show (4 * k.val + m) / 4 = k.val by omega, show (4 * k.val + m) % 4 = m by omega,
    Vector.getElem?_eq_getElem hk]
  rfl

/-- `scheduleCurrent` reads CONFIG, KEYBUF, S and the number of resets only. -/
theorem scheduleCurrent_congr {s t : State} (h1 : t.config = s.config) (h2 : t.keybuf = s.keybuf)
    (h3 : t.subkeys = s.subkeys) (h4 : t.resets = s.resets) : s.scheduleCurrent → t.scheduleCurrent := by
  have hk : t.keyByte = s.keyByte := by funext k; simp [State.keyByte, h2, h4]
  unfold State.scheduleCurrent State.width State.wsel State.keyLen State.rounds
  rw [h1, h3, hk]
  exact id

/-- A command ends with the engine idle and DONE set (spec/44_control.md R233). -/
theorem exec_completes {i : Instr} {s t : State} (h : exec i s = .next t) : t.engine = .idle ∧ t.done = true := by
  rcases exec_cases i s with ⟨_, e⟩ | ⟨_, e⟩ | ⟨_, e⟩ | ⟨_, _, e⟩ | ⟨_, _, _, _, _, e⟩ <;>
  · rw [e] at h; cases h; exact ⟨rfl, rfl⟩

theorem execWord_completes {v : Reg32} {s t : State} (h : execWord v s = .next t) :
    t.engine = .idle ∧ t.done = true := by
  rcases execWord_cases v s with ⟨i, -, e⟩ | ⟨_, -, e⟩
  · rw [e] at h; exact exec_completes h
  · rw [e] at h; cases h; exact ⟨rfl, rfl⟩

end Sys2Proof.Machine
end

