-- ==== Sys2Proof/Laws/Driver.lean ====
section
/-! SUPPORT. What the pieces of the host driver do: the packing of bytes into register values, the runs of
writes that load a key or a block, one command with its WAIT, and the reading of a block. -/

namespace Sys2Proof.Machine

/-- The register values of a byte sequence: four bytes each, least significant first, missing bytes 0. -/
theorem packLanes_spec (bs : List Byte) :
    (packLanes bs).length = (bs.length + 3) / 4 ∧
    ∀ n, laneByte ((packLanes bs).getD (n / 4) 0) (n % 4) = bs.getD n 0 := by
  have lane : ∀ b0 b1 b2 b3 n, n < 4 → laneByte (laneReg b0 b1 b2 b3) (n % 4) = [b0, b1, b2, b3].getD n 0 := by
    intro b0 b1 b2 b3 n h
    rw [Nat.mod_eq_of_lt h, laneByte_laneReg _ _ _ _ _ h]
  have zero : ∀ m, laneByte (0#32) m = 0#8 := by intro m; simp [laneByte]
  have last : ∀ (b0 b1 b2 b3 : Byte) (bs : List Byte), packLanes bs = [laneReg b0 b1 b2 b3] →
      (∀ n < 4, bs.getD n 0 = [b0, b1, b2, b3].getD n 0) → bs.length ≤ 4 →
      ∀ n, laneByte ((packLanes bs).getD (n / 4) 0) (n % 4) = bs.getD n 0 := by
    intro b0 b1 b2 b3 bs hp hb hl n
    rw [hp]
    by_cases h : n < 4
    · rw [Nat.div_eq_of_lt h, List.getD_cons_zero, lane _ _ _ _ _ h, hb n h]
    · rw [show n / 4 = (n / 4 - 1) + 1 by omega, List.getD_cons_succ]
      simp [zero, List.getElem?_eq_none (by omega : bs.length ≤ n)]
  induction bs using packLanes.induct with
  | case1 b0 b1 b2 b3 bs ih =>
    rw [packLanes]
    refine ⟨by simp only [List.length_cons, ih.1]; omega, ?_⟩
    intro n
    by_cases h : n < 4
    · rw [Nat.div_eq_of_lt h, List.getD_cons_zero, lane _ _ _ _ _ h]
      interval_cases n <;> rfl
    · have := ih.2 (n - 4)
      rw [show n / 4 = (n - 4) / 4 + 1 by omega, List.getD_cons_succ, show n % 4 = (n - 4) % 4 by omega, this]
      rw [show n = (n - 4) + 4 by omega]
      rfl
  | case2 b0 b1 b2 =>
    exact ⟨by simp [packLanes], last _ _ _ _ _ rfl (by intro n h; interval_cases n <;> rfl) (by simp)⟩
  | case3 b0 b1 =>
    exact ⟨by simp [packLanes], last _ _ _ _ _ rfl (by intro n h; interval_cases n <;> rfl) (by simp)⟩
  | case4 b0 =>
    exact ⟨by simp [packLanes], last _ _ _ _ _ rfl (by intro n h; interval_cases n <;> rfl) (by simp)⟩
  | case5 => exact ⟨rfl, fun n => by simp [packLanes, zero]⟩

theorem writeRun_cons_key (k : Nat) (v : Reg32) (vs : List Reg32) (hk : k < 64) (s : State) :
    driverInputs (writeRun (BitVec.ofNat 14 (0x100 + 4 * k)) (v :: vs)) s =
      driverInputs (writeRun (BitVec.ofNat 14 (0x100 + 4 * (k + 1))) vs)
        (s.access false (hostWrite (.key ⟨k, hk⟩) v)) := by
  have e : BitVec.ofNat 14 (0x100 + 4 * k) + 4 = BitVec.ofNat 14 (0x100 + 4 * (k + 1)) := by
    apply BitVec.eq_of_toNat_eq
    simp
    omega
  rw [writeRun, e]
  rfl

theorem writeRun_cons_din (k : Nat) (v : Reg32) (vs : List Reg32) (hk : k < 8) (s : State) :
    driverInputs (writeRun (BitVec.ofNat 14 (0x020 + 4 * k)) (v :: vs)) s =
      driverInputs (writeRun (BitVec.ofNat 14 (0x020 + 4 * (k + 1))) vs)
        (s.access false (hostWrite (.din ⟨k, hk⟩) v)) := by
  have e : BitVec.ofNat 14 (0x020 + 4 * k) + 4 = BitVec.ofNat 14 (0x020 + 4 * (k + 1)) := by
    apply BitVec.eq_of_toNat_eq
    simp
    omega
  rw [writeRun, e]
  rfl

/-- A run of KEY writes from register k on, the engine idle. -/
theorem writeRun_key (vs : List Reg32) (k : Nat) (h : k + vs.length ≤ 64) (s : State) (hi : s.engine = .idle) :
    let t := driverInputs (writeRun (BitVec.ofNat 14 (0x100 + 4 * k)) vs) s
    t.engine = .idle ∧ t.config = s.config ∧
    ∀ n, t.keyByte n =
      if 4 * k ≤ n ∧ n < 4 * (k + vs.length) then laneByte (vs.getD ((n - 4 * k) / 4) 0) ((n - 4 * k) % 4)
      else s.keyByte n := by
  induction vs generalizing k s with
  | nil => exact ⟨hi, rfl, fun n => by rw [if_neg (by simp)]; rfl⟩
  | cons v vs ih =>
    intro t
    rw [List.length_cons] at h
    have hk : k < 64 := by omega
    have hu : s.access false (hostWrite (.key ⟨k, hk⟩) v) = (s.setKey ⟨k, hk⟩ v).respond .ok none :=
      access_hostWrite_idle hi false _ v (State.setKey ⟨k, hk⟩ v) rfl
    obtain ⟨g1, g2, g3⟩ := ih (k + 1) (by omega) ((s.setKey ⟨k, hk⟩ v).respond .ok none) hi
    rw [← hu, ← writeRun_cons_key k v vs hk s] at g1 g2 g3
    refine ⟨g1, g2.trans (by rw [hu]; rfl), fun n => (g3 n).trans ?_⟩
    have e : (s.access false (hostWrite (.key ⟨k, hk⟩) v)).keyByte n = (s.setKey ⟨k, hk⟩ v).keyByte n := by
      rw [hu]; rfl
    rw [e, setKey_keyByte]
    simp only [List.length_cons]
    by_cases c1 : 4 * (k + 1) ≤ n ∧ n < 4 * (k + 1 + vs.length)
    · rw [if_pos c1, if_pos (by omega), show (n - 4 * k) / 4 = (n - 4 * (k + 1)) / 4 + 1 by omega,
        List.getD_cons_succ]
      congr 1
      omega
    · rw [if_neg c1]
      by_cases c2 : 4 * k ≤ n ∧ n < 4 * k + 4
      · rw [if_pos c2, if_pos (by omega), show (n - 4 * k) / 4 = 0 by omega,
          show (n - 4 * k) % 4 = n - 4 * k by omega]
        rfl
      · rw [if_neg c2, if_neg (by omega)]

/-- A run of DIN writes from register k on, the engine idle. -/
theorem writeRun_din (vs : List Reg32) (k : Nat) (h : k + vs.length ≤ 8) (s : State) (hi : s.engine = .idle) :
    let t := driverInputs (writeRun (BitVec.ofNat 14 (0x020 + 4 * k)) vs) s
    t.engine = .idle ∧ t.config = s.config ∧ t.subkeys = s.subkeys ∧ t.keyValid = s.keyValid ∧
    t.resets = s.resets ∧
    ∀ n < 32, t.dinByte n =
      if 4 * k ≤ n ∧ n < 4 * (k + vs.length) then laneByte (vs.getD ((n - 4 * k) / 4) 0) ((n - 4 * k) % 4)
      else s.dinByte n := by
  induction vs generalizing k s with
  | nil => exact ⟨hi, rfl, rfl, rfl, rfl, fun n _ => by rw [if_neg (by simp)]; rfl⟩
  | cons v vs ih =>
    intro t
    rw [List.length_cons] at h
    have hk : k < 8 := by omega
    have hu : s.access false (hostWrite (.din ⟨k, hk⟩) v) = (s.setDin ⟨k, hk⟩ v).respond .ok none :=
      access_hostWrite_idle hi false _ v (State.setDin ⟨k, hk⟩ v) rfl
    obtain ⟨g1, g2, g3, g4, g5, g6⟩ := ih (k + 1) (by omega) ((s.setDin ⟨k, hk⟩ v).respond .ok none) hi
    rw [← hu, ← writeRun_cons_din k v vs hk s] at g1 g2 g3 g4 g5 g6
    refine ⟨g1, g2.trans (by rw [hu]; rfl), g3.trans (by rw [hu]; rfl), g4.trans (by rw [hu]; rfl),
      g5.trans (by rw [hu]; rfl), fun n hn => (g6 n hn).trans ?_⟩
    have e : (s.access false (hostWrite (.din ⟨k, hk⟩) v)).dinByte n = (s.setDin ⟨k, hk⟩ v).dinByte n := by
      rw [hu]; rfl
    rw [e, setDin_dinByte _ _ _ _ hn]
    simp only [List.length_cons]
    by_cases c1 : 4 * (k + 1) ≤ n ∧ n < 4 * (k + 1 + vs.length)
    · rw [if_pos c1, if_pos (by omega), show (n - 4 * k) / 4 = (n - 4 * (k + 1)) / 4 + 1 by omega,
        List.getD_cons_succ]
      congr 1
      omega
    · rw [if_neg c1]
      by_cases c2 : n / 4 = k
      · rw [if_pos c2, if_pos (by omega), show (n - 4 * k) / 4 = 0 by omega,
          show (n - 4 * k) % 4 = n % 4 by omega]
        rfl
      · rw [if_neg c2, if_neg (by omega)]

/-- STATUS[7:4] is ERR (spec/10_state.md R33). -/
theorem status_err (s : State) : s.status.extractLsb' 4 4 = s.err := by
  apply BitVec.eq_of_getLsbD_eq
  intro i hi
  simp only [State.status, BitVec.getLsbD_extractLsb', BitVec.getLsbD_append]
  interval_cases i <;> simp

/-- `CMD m; WAIT; R32 STATUS`: the command is accepted with some latency, completes as its meaning says, and its
code is read. -/
theorem driverCommand_spec (i : Instr) (s : State) (hi : s.engine = .idle) :
    ∃ n t d, exec i ((s.accept (encode i)).respond .ok none) = .next t ∧
      (s.accept (encode i)).engine = .busy (encode i) n ∧
      driverCommand i s = (t.respond .ok (some d), t.err) := by
  obtain ⟨t, ht⟩ := exec_next i ((s.accept (encode i)).respond .ok none)
  have hd : decode (encode i) = .ok i := by cases i <;> rfl
  have h1 : driverInput (cmdInput i) s = (s.accept (encode i)).respond .ok none :=
    access_hostWrite_idle hi false .cmd (encode i) (State.accept (encode i)) rfl
  have hx : execWord (encode i) ((s.accept (encode i)).respond .ok none) = .next t := by
    simp only [execWord, hd]; exact ht
  have h2 : driverWait (driverInput (cmdInput i) s) = t := by
    rw [h1]
    simp only [driverWait, State.respond_engine, State.accept_engine, hx]
  have h3 : driverInput pollInput t = t.respond .ok (some t.status) :=
    (access_hostRead t false .status).trans (readReg_idle (exec_completes ht).1 _)
  refine ⟨_, t, t.status, ht, rfl, ?_⟩
  simp only [driverCommand, h2, h3]
  exact congrArg _ (status_err t)

/-- `READBLK n` from register k on: the bytes of DOUT_B; only the response changes. -/
theorem driverReadBlk_spec (n k : Nat) (h : k + n ≤ 8) (s : State) (hi : s.engine = .idle) :
    (driverReadBlk n k s).2 = (List.range (4 * n)).map (fun m => s.doutByte (4 * k + m)) ∧
    ∃ r, (driverReadBlk n k s).1 = { s with response := r } := by
  induction n generalizing k s with
  | zero => exact ⟨rfl, _, rfl⟩
  | succ n ih =>
    have hk : k < 8 := by omega
    have h1 : driverInput (r32 (BitVec.ofNat 14 (0x040 + 4 * k))) s =
        s.respond .ok (some (s.regValue (.dout ⟨k, hk⟩))) :=
      (access_hostRead s false (.dout ⟨k, hk⟩)).trans (readReg_idle hi _)
    obtain ⟨g1, r, g2⟩ := ih (k + 1) (by omega) (s.respond .ok (some (s.regValue (.dout ⟨k, hk⟩)))) hi
    have hv : (s.respond .ok (some (s.regValue (.dout ⟨k, hk⟩)))).readData = s.regValue (.dout ⟨k, hk⟩) := rfl
    have hd : ∀ m < 4, laneByte (s.regValue (.dout ⟨k, hk⟩)) m = s.doutByte (4 * k + m) :=
      laneByte_dout s ⟨k, hk⟩
    unfold driverReadBlk
    simp only [h1]
    refine ⟨?_, r, by rw [g2]; rfl⟩
    rw [g1, hv, hd 0 (by omega), hd 1 (by omega), hd 2 (by omega), hd 3 (by omega)]
    rw [show 4 * (n + 1) = 4 * n + 1 + 1 + 1 + 1 by omega, List.range_succ_eq_map, List.range_succ_eq_map,
      List.range_succ_eq_map, List.range_succ_eq_map]
    simp only [List.map_cons, List.map_map, List.cons.injEq]
    refine ⟨trivial, trivial, trivial, trivial, ?_⟩
    apply List.map_congr_left
    intro a _
    show s.doutByte (4 * (k + 1) + a) = s.doutByte (4 * k + (a + 1 + 1 + 1 + 1))
    congr 1
    omega

end Sys2Proof.Machine
end

