-- ==== Sys2Proof/Laws/PerInstr.lean ====
section
/-! SUPPORT. Statements for all instructions, one lemma for each constructor of Instr. -/

namespace Sys2Proof.Laws.Encoding

/-- The command word of an instruction is a legal word: RSVD is 0 and OPCODE is one of the assigned values
(spec/30_encoding.md R91, R96). -/
def Statement (i : Instr) : Prop :=
  i.wellFormed = true ∧ wordRsvd (encode i) = 0 ∧ (wordOpcode (encode i)).toNat ≤ 0xA ∧
    wordLegal (encode i) = true

theorem nop : Statement .nop := by unfold Statement; decide
theorem ks : Statement .ks := by unfold Statement; decide
theorem enc : Statement .enc := by unfold Statement; decide
theorem dec : Statement .dec := by unfold Statement; decide
theorem add : Statement .add := by unfold Statement; decide
theorem sub : Statement .sub := by unfold Statement; decide
theorem xor : Statement .xor := by unfold Statement; decide
theorem rotl : Statement .rotl := by unfold Statement; decide
theorem rotr : Statement .rotr := by unfold Statement; decide
theorem deser : Statement .deser := by unfold Statement; decide
theorem ser : Statement .ser := by unfold Statement; decide

end Sys2Proof.Laws.Encoding
end

