-- ==== Sys2Proof/Tests/Slice0.lean ====
section
/-! SUPPORT. The model's own tests. Expected values come from the spec: spec/30_encoding.md, spec/95_test_vectors.md
and the examples of the command rules, each cited. At the end, a state and operands that meet the hypotheses of each
statement that has some. -/

namespace Sys2Proof.Tests

open Sys2Proof Sys2Proof.Machine

/-! ## Helpers -/

/-- The state a step or a command leaves. -/
def after (o : Host.Outcome State Fault Refusal) : State :=
  match o with
  | .next t => t
  | .fault _ => State.reset
  | .refused _ => State.reset

/-- The reset state with CONFIG, OPA and OPB. -/
def withOperands (config : Reg32) (a b : Reg128) : State := { State.reset with config := config, opa := a, opb := b }

/-- RES after a command on operands at a width. -/
def resAfter (i : Instr) (config : Reg32) (a b : Reg128) : Reg128 := (after (exec i (withOperands config a b))).res

/-- The reset state with CONFIG and the first bytes of KEYBUF written. -/
def keyed (config : Reg32) (key : List Byte) : State :=
  { State.reset with config := config, keybuf := memWriteList [] 0 key }

/-- The same after a KS, with a block in DIN. -/
def scheduled (config : Reg32) (key block : List Byte) : State :=
  { after (exec .ks (keyed config key)) with din := blockRegs block }

/-- Byte sequence 00 01 02 ... of n bytes. -/
def seq (n : Nat) : List Byte := (List.range n).map fun k => BitVec.ofNat 8 k

/-- The first n bytes of DOUT_B. -/
def outBytes (s : State) (n : Nat) : List Byte := (List.range n).map s.doutByte

/-- The n bytes of a number written in hexadecimal, the leftmost first. -/
def hexBytes (n x : Nat) : List Byte := (List.range n).map fun k => BitVec.ofNat 8 (x / 256 ^ (n - 1 - k))

/-- STATUS after a command word has run to its end on the reset state with CONFIG. -/
def statusAfter (config word : Reg32) : Reg32 := (after (execWord word { State.reset with config := config })).status

/-- The reset state with the engine busy on a word, n cycles after the next to run, and the host's inputs. -/
def busyOn (word : Reg32) (n : Nat) (pins : List CycleInput) : State :=
  { State.reset with engine := .busy word n, pins := pins }

/-- A cycle with one transaction. -/
def cycle (a : Access) : CycleInput := { rst := false, access := some a }

/-! ## Well-formedness: an ill-formed term for each check -/

/-- spec/30_encoding.md R98: RSVD is not 0. -/
theorem test_wf_rsvd : wordRsvdClear 0x00000010 = false ∧ wordLegal 0x00000011 = false := by decide

/-- spec/30_encoding.md R97: a reserved opcode. -/
theorem test_wf_opcode : wordOpcodeAssigned 0x0000000B = false ∧ wordLegal 0x0000000F = false := by decide

/-- spec/30_encoding.md R99: the legal words at the ends of the map. -/
theorem test_wf_legal : wordLegal 0x00000000 = true ∧ wordLegal 0x0000000A = true := by decide

/-- spec/45_block_codec_driver.md R244: r or b of 512 does not fit CONFIG. -/
theorem test_wf_encodable :
    ({ width := .w32, rounds := 512, keyLen := 0 } : ConfigArgs).encodable = false ∧
    ({ width := .w32, rounds := 0, keyLen := 512 } : ConfigArgs).encodable = false ∧
    ({ width := .w32, rounds := 511, keyLen := 511 } : ConfigArgs).encodable = true := by decide

/-- spec/00_scope.md R7: r = 256 and b = 257 are not legal, 255 and 256 are. -/
theorem test_wf_legal_args :
    ({ width := .w32, rounds := 256, keyLen := 0 } : ConfigArgs).legal = false ∧
    ({ width := .w32, rounds := 0, keyLen := 257 } : ConfigArgs).legal = false ∧
    ({ width := .w32, rounds := 255, keyLen := 256 } : ConfigArgs).legal = true := by decide

/-- Every instruction is well formed: it has no operand (spec/30_encoding.md R92). -/
theorem test_wf_instr : (Instr.nop).wellFormed = true ∧ (Instr.ser).wellFormed = true := by decide

/-! ## Decoding: the words of spec/30_encoding.md R91 and R96, bit by bit -/

theorem test_decode_nop : decode 0b00000000000000000000000000000000#32 = .ok .nop := by decide

theorem test_decode_ks : decode 0b00000000000000000000000000000001#32 = .ok .ks := by decide

theorem test_decode_enc : decode 0b00000000000000000000000000000010#32 = .ok .enc := by decide

theorem test_decode_dec : decode 0b00000000000000000000000000000011#32 = .ok .dec := by decide

theorem test_decode_add : decode 0b00000000000000000000000000000100#32 = .ok .add := by decide

theorem test_decode_sub : decode 0b00000000000000000000000000000101#32 = .ok .sub := by decide

theorem test_decode_xor : decode 0b00000000000000000000000000000110#32 = .ok .xor := by decide

theorem test_decode_rotl : decode 0b00000000000000000000000000000111#32 = .ok .rotl := by decide

theorem test_decode_rotr : decode 0b00000000000000000000000000001000#32 = .ok .rotr := by decide

theorem test_decode_deser : decode 0b00000000000000000000000000001001#32 = .ok .deser := by decide

theorem test_decode_ser : decode 0b00000000000000000000000000001010#32 = .ok .ser := by decide

/-- The illegal words of spec/95_test_vectors.md section 2.8. -/
theorem test_decode_illegal :
    decode 0x0000000B = .error .reservedOpcode ∧ decode 0x0000000F = .error .reservedOpcode ∧
    decode 0x00000010 = .error .reservedBits ∧ decode 0x00000011 = .error .reservedBits ∧
    decode 0x80000000 = .error .reservedBits ∧ decode 0xFFFFFFFF = .error .reservedBits := by decide

/-! ## The commands, one step each -/

/-- spec/44_control.md R230: with STATUS = 0x00000062, NOP leaves STATUS = 0x00000002. -/
theorem test_nop_clears_err :
    (after (exec .nop { State.reset with done := true, err := 6, config := 6 })).status = 0x00000002 := by decide

/-- spec/40_word_alu.md R129: at w = 16, 0xFFFF + 0x0001 = 0x0000. -/
theorem test_add_wraps : resAfter .add 0 0xFFFF 0x0001 = 0 := by decide

/-- spec/95_test_vectors.md section 2.1: operand bits above w = 32 are ignored. -/
theorem test_add_ignores_high_bits : resAfter .add 1 0x1FFFFFFFF 0xAAAAAAAA00000001 = 0 := by decide

/-- spec/95_test_vectors.md P2: 0x0000 − 0x0001 wraps, the bit of OPA above w = 16 ignored. -/
theorem test_sub_wraps : resAfter .sub 0 0x00010000 0x00000001 = 0xFFFF := by decide

/-- spec/40_word_alu.md R130, the example at w = 64. -/
theorem test_sub_w64 : resAfter .sub 2 0x8000000000000001 0x3F = 0x7FFFFFFFFFFFFFC2 := by decide

/-- spec/40_word_alu.md R131, the example at w = 16. -/
theorem test_xor : resAfter .xor 0 0x1234 0x5678 = 0x444C := by decide

/-- spec/95_test_vectors.md section 2.1, w = 64: bits on both sides of bit 32. -/
theorem test_xor_w64 : resAfter .xor 2 0x0123456789ABCDEF 0x0000000100000004 = 0x0123456689ABCDEB := by decide

/-- spec/40_word_alu.md R132, the example: amount 21 mod 16 = 5. -/
theorem test_rotl_amount_mod_w : resAfter .rotl 0 0x444C 0x0015 = 0x8988 := by decide

/-- spec/95_test_vectors.md section 2.1, w = 64: amount 0x100000004 rotates by 4. -/
theorem test_rotl_w64 : resAfter .rotl 2 0x0123456789ABCDEF 0x0000000100000004 = 0x123456789ABCDEF0 := by decide

/-- spec/95_test_vectors.md section 2.1: amount 17 at w = 16 rotates right by 1. -/
theorem test_rotr_amount_mod_w : resAfter .rotr 0 0x8001 0x0011 = 0xC000 := by decide

/-- spec/95_test_vectors.md section 2.1, w = 128: amount 0xA4 = 164 rotates right by 36. -/
theorem test_rotr_w128 :
    resAfter .rotr 3 0x000102030405060708090A0B0C0D0E0F 0xA4 = 0xB0C0D0E0F000102030405060708090A0 := by decide

/-- spec/95_test_vectors.md section 2.3, w = 16. -/
theorem test_deser_w16 :
    (after (exec .deser { State.reset with din := blockRegs (seq 32), opa := 0xFFFFFFFF })).opa = 0x0100 ∧
    (after (exec .deser { State.reset with din := blockRegs (seq 32) })).opb = 0x0302 := by decide

/-- spec/95_test_vectors.md section 2.3, w = 128. -/
theorem test_deser_w128 :
    (after (exec .deser { State.reset with config := 3, din := blockRegs (seq 32) })).opa =
      0x0F0E0D0C0B0A09080706050403020100 ∧
    (after (exec .deser { State.reset with config := 3, din := blockRegs (seq 32) })).opb =
      0x1F1E1D1C1B1A19181716151413121110 := by decide

/-- spec/95_test_vectors.md section 2.3, narrow after wide: the rest of DOUT is cleared. -/
theorem test_ser_clears_rest :
    (after (exec .ser { withOperands 0 0x4169 0xFFFF with dout := blockRegs (seq 32) })).dout =
      #v[0xFFFF4169, 0, 0, 0, 0, 0, 0, 0] := by decide

/-- spec/95_test_vectors.md section 2.3, w = 64. -/
theorem test_ser_w64 :
    (after (exec .ser (withOperands 2 0x0706050403020100 0x0F0E0D0C0B0A0908))).dout =
      #v[0x03020100, 0x07060504, 0x0B0A0908, 0x0F0E0D0C, 0, 0, 0, 0] := by decide

/-- spec/70_reset_and_hazards.md R295, spec/95_test_vectors.md section 2.4: KS straight after reset. -/
theorem test_ks_empty_key :
    memLookup (after (exec .ks State.reset)).subkeys 0 = some 0x7865 ∧
    memLookup (after (exec .ks State.reset)).subkeys 1 = some 0x33F4 ∧
    (after (exec .ks State.reset)).keyWords = [(0, 0x37DA)] := by decide +kernel

/-- spec/95_test_vectors.md section 2.4: KAT1's first and last subkeys and its key words after mixing. -/
theorem test_ks_kat1 :
    memLookup (after (exec .ks (keyed 0x01000C01 (seq 16)))).subkeys 0 = some 0xD447E233 ∧
    memLookup (after (exec .ks (keyed 0x01000C01 (seq 16)))).subkeys 25 = some 0x15E8E206 ∧
    memLookup (after (exec .ks (keyed 0x01000C01 (seq 16)))).keyWords 3 = some 0xA02F47EB := by decide +kernel

/-- spec/95_test_vectors.md section 1.1, KAT1, the source's vector at w = 32. -/
theorem test_enc_kat1 :
    outBytes (after (exec .enc (scheduled 0x01000C01 (seq 16) (hexBytes 8 0x0011223344556677)))) 9 =
      hexBytes 9 0x2DDC149BCF088B9E00 := by decide +kernel

/-- spec/95_test_vectors.md section 2.5: RC5-64/24/24. -/
theorem test_enc_w64 :
    outBytes (after (exec .enc (scheduled 0x01801802 (seq 24) (seq 16)))) 16 =
      hexBytes 16 0xA46772820EDBCE0235ABEA32AE7178DA := by decide +kernel

/-- spec/95_test_vectors.md section 1.1, KAT3, the source's vector at w = 16. -/
theorem test_dec_kat3 :
    outBytes (after (exec .dec (scheduled 0x00801000 (seq 8) (hexBytes 4 0x23A8D72E)))) 4 =
      hexBytes 4 0x00010203 := by decide +kernel

/-- spec/95_test_vectors.md section 1.1, KAT4, the source's vector at w = 128. -/
theorem test_dec_kat4 :
    outBytes (after (exec .dec (scheduled 0x02001C03 (seq 32)
      (hexBytes 32 0xECA5910921A4F4CFDD7AD7AD20A1FCBA068EC7A7CD752D68FE914B7FE180B440)))) 32 = seq 32 := by
  decide +kernel

/-! ## Errors: spec/95_test_vectors.md section 2.6 -/

theorem test_errors_ks :
    statusAfter 0x10100C01 0x00000001 = 0x00000052 ∧ statusAfter 0x01010001 0x00000001 = 0x00000072 ∧
    statusAfter 0x10110001 0x00000001 = 0x00000052 ∧ statusAfter 0x1FF1FF07 0x00000001 = 0x00000062 := by
  decide +kernel

theorem test_errors_others :
    statusAfter 0 0x00000002 = 0x00000082 ∧ statusAfter 5 0x00000009 = 0x00000062 ∧
    statusAfter 6 0x00000000 = 0x00000002 ∧ statusAfter 4 0x00000002 = 0x00000062 := by decide

theorem test_errors_illegal :
    statusAfter 0 0x0000000B = 0x00000092 ∧ statusAfter 0 0x0000000F = 0x00000092 ∧
    statusAfter 0 0x00000011 = 0x00000092 ∧ statusAfter 0 0x80000002 = 0x00000092 ∧
    statusAfter 7 0x00000010 = 0x00000092 := by decide

/-! ## The bus: spec/95_test_vectors.md section 2.7 -/

/-- B2: CONFIG keeps only its fields, and KEY_VALID goes to 0. -/
theorem test_config_mask :
    ({ State.reset with keyValid := true }.access false (hostWrite .config 0xFFFFFFFF)).config = 0x1FF1FF07 ∧
    ({ State.reset with keyValid := true }.access false (hostWrite .config 0xFFFFFFFF)).keyValid = false := by decide

/-- B3, B4, B5: refused accesses. -/
theorem test_refused :
    accessTarget { addr := 0x004, write := true, size := 0, wdata := 1 } = none ∧
    accessTarget { addr := 0x004, write := true, size := 1, wdata := 1 } = none ∧
    accessTarget { addr := 0x022, write := true, size := 2, wdata := 1 } = none ∧
    accessTarget { addr := 0x014, write := true, size := 2, wdata := 1 } = none ∧
    accessTarget { addr := 0x0B0, write := true, size := 2, wdata := 1 } = none ∧
    accessTarget { addr := 0x200, write := true, size := 2, wdata := 1 } = none ∧
    accessTarget { addr := 0x3000, write := true, size := 2, wdata := 1 } = none := by decide

/-- spec/10_state.md R23: the registers at the ends of the ranges. -/
theorem test_register_map :
    regAt 0x010 = some .irqEn ∧ regAt 0x03C = some (.din 7) ∧ regAt 0x040 = some (.dout 0) ∧
    regAt 0x0AC = some (.qconst 3) ∧ regAt 0x100 = some (.key 0) ∧ regAt 0x1FC = some (.key 63) ∧
    regAt 0x1000 = some (.swin 0 0) ∧ regAt 0x1194 = some (.swin 25 1) ∧ regAt 0x2FFC = some (.swin 511 3) := by decide

/-- B8, B9, B10: the bits a STATUS write clears. -/
theorem test_status_write :
    ({ State.reset with done := true, keyValid := true, wbusy := true }.access false (hostWrite .status 2)).status =
      0x0000000C ∧
    ({ State.reset with done := true, keyValid := true, wbusy := true }.access false (hostWrite .status 8)).status =
      0x00000006 ∧
    ({ State.reset with done := true, keyValid := true, wbusy := true, err := 9 }.access false
      (hostWrite .status 0xFFFFFFFF)).status = 0x00000094 := by decide

/-- B11: a write to DIN3 while busy is dropped and sets WBUSY. -/
theorem test_busy_write :
    ((busyOn 0 5 []).access false (hostWrite (.din 3) 0xDEADBEEF)).din = State.reset.din ∧
    ((busyOn 0 5 []).access false (hostWrite (.din 3) 0xDEADBEEF)).status = 0x00000009 := by decide

/-- B12: IRQ_EN is written while busy. -/
theorem test_busy_irq_en : ((busyOn 0 5 []).access false (hostWrite .irqEn 1)).irqEn = 1 := by decide

/-- spec/20_memory.md R66: the bytes of DIN0. -/
theorem test_din_bytes :
    (State.reset.access false (hostWrite (.din 0) 0x33221100)).dinBytes 0 4 = [0x00, 0x11, 0x22, 0x33] := by decide

/-- B15: a KEY write clears KEY_VALID and is read back. -/
theorem test_key_write :
    ({ State.reset with keyValid := true }.access false (hostWrite (.key 63) 0x33221100)).keyValid = false ∧
    ({ State.reset with keyValid := true }.access false (hostWrite (.key 63) 0x33221100)).keyByte 255 = 0x33 := by decide

/-- spec/95_test_vectors.md section 2.2: PCONST and QCONST at WSEL = 3 and 4. -/
theorem test_constants :
    ({ State.reset with config := 3 }).regValue (.pconst 2) = 0x8AED2A6A ∧
    ({ State.reset with config := 3 }).regValue (.qconst 1) = 0xF39CC060 ∧
    ({ State.reset with config := 4 }).regValue (.pconst 0) = 0 ∧
    State.reset.regValue (.qconst 0) = 0x00009E37 := by decide

/-- spec/95_test_vectors.md section 2.6: STATUS just after acceptance, with ERR 8 before it. -/
theorem test_accept_status :
    ({ State.reset with done := true, err := 8 }.access false (hostWrite .cmd 0)).status = 0x00000081 := by decide

/-- spec/95_test_vectors.md section 2.6: with KEY_VALID = 1, STATUS just after the acceptance of a KS. -/
theorem test_accept_ks_status :
    ({ State.reset with done := true, keyValid := true }.access false (hostWrite .cmd 1)).status = 0x00000001 := by decide

/-! ## One step -/

/-- The word of KS, placed where a CMD write leaves it, runs as the first instruction after reset. -/
theorem test_step_ks :
    (memLookup (after (step (State.reset.withFetchWord 32 1))).subkeys 1) = some 0x33F4 := by decide +kernel

/-- spec/60_exceptions.md R263: a STATUS write in the cycle of a completion leaves DONE = 1. -/
theorem test_step_w1c_in_completion :
    (after (step (busyOn 0 0 [cycle (hostWrite .status 2)]))).status = 0x00000002 := by decide

/-- spec/60_exceptions.md R263: a CMD write in the cycle of a completion is accepted. -/
theorem test_step_cmd_in_completion :
    (after (step (busyOn 0 0 [cycle (hostWrite .cmd 2)]))).status = 0x00000001 := by decide

/-- spec/60_exceptions.md R263: completion and reset in one cycle: STATUS = 0. -/
theorem test_step_reset_in_completion :
    (after (step (busyOn 0 0 [{ rst := true, access := none }]))).status = 0x00000000 := by decide

/-- spec/60_exceptions.md R265: a completion raises irq when DONE_IE = 1. -/
theorem test_step_irq :
    (after (step { busyOn 0xFFFFFFFF 0 [] with irqEn := 1 })).irq = true ∧
    (after (step (busyOn 0xFFFFFFFF 0 []))).irq = false := by decide

/-! ## The host program notation and the driver -/

/-- spec/95_test_vectors.md section 2.8: CONFIG words. -/
theorem test_setcfg :
    configWord { width := .w32, rounds := 12, keyLen := 16 } = 0x01000C01 ∧
    configWord { width := .w64, rounds := 24, keyLen := 24 } = 0x01801802 ∧
    configWord { width := .w128, rounds := 255, keyLen := 256 } = 0x1000FF03 := by decide

/-- spec/30_encoding.md R102: LOADKEY of five bytes writes two registers, missing bytes 0. -/
theorem test_loadkey :
    loadKeyInputs [1, 2, 3, 4, 5] = [w32 0x100 0x04030201, w32 0x104 0x00000005] := by decide

/-- spec/95_test_vectors.md section 2.5: ENCODE of one block at w = 16, r = 0 with the empty key. -/
theorem test_driver_encode :
    (driverEncode [] [0, 0, 0, 0] 0 .w16 State.reset).2.toOption = some (hexBytes 4 0x6578F433) := by decide +kernel

/-- spec/45_block_codec_driver.md R243, spec/95_test_vectors.md section 1.3: validation and empty input. -/
theorem test_driver_validates :
    (match (driverEncode [] (seq 7) 12 .w32 State.reset).2 with | .error c => c | .ok _ => 0) = 0x1 ∧
    (match (driverDecode [] (seq 7) 12 .w32 State.reset).2 with | .error c => c | .ok _ => 0) = 0x2 ∧
    (driverEncode [] [] 12 .w32 State.reset).2.toOption = some [] := by decide

/-! ## Witnesses: for each statement with hypotheses, a state and operands that meet them -/

theorem witness_RegisterMapIsOneToOne :
    (0x014#14).toNat % 4 = 0 ∧ offsetReserved (0x014#14).toNat ∧ offsetReserved (0x3FFC#14).toNat ∧
    ¬offsetReserved (0x010#14).toNat ∧ ¬offsetReserved (0x2FFC#14).toNat := by unfold offsetReserved; decide

theorem witness_SetCfgIsReadBack :
    State.reset.engine = .idle ∧
    ({ width := .w128, rounds := 511, keyLen := 511 } : ConfigArgs).encodable = true := by decide

theorem witness_StepRunsDecodedInstruction :
    (busyOn 10 0 []).nextInput.rst = false ∧ (busyOn 10 0 []).engine = .busy 10 0 ∧ decode 10 = .ok .ser := by decide

theorem witness_StepIsOneClockCycle :
    (busyOn 0 0 [{ rst := true, access := none }]).nextInput.rst = true ∧
    (State.reset.nextInput.rst = false ∧ State.reset.engine = .idle) ∧
    ((busyOn 1 3 []).nextInput.rst = false ∧ (busyOn 1 3 []).engine = .busy 1 (2 + 1)) ∧
    ((busyOn 1 0 []).nextInput.rst = false ∧ (busyOn 1 0 []).engine = .busy 1 0) := by decide

theorem witness_CommandIsAccepted :
    State.reset.engine = .idle ∧ (busyOn 1 0 []).engine = .busy 1 0 := by decide

theorem witness_RunningCommandCompletes :
    (busyOn 2 2 [cycle (hostWrite .cmd 1), CycleInput.quiet, CycleInput.quiet]).engine = .busy 2 2 ∧
    ∀ inp ∈ (busyOn 2 2 [cycle (hostWrite .cmd 1), CycleInput.quiet, CycleInput.quiet]).pins.take (2 + 1),
      inp.rst = false := by decide

theorem witness_CompletionComesFirstInItsCycle :
    (busyOn 1 0 [cycle (hostWrite .status 2)]).engine = .busy 1 0 ∧
    (busyOn 1 0 [cycle (hostWrite .status 2)]).pins =
      { rst := false, access := some (hostWrite .status 2) } :: [] ∧
    (busyOn 1 0 [cycle (hostRead .status)]).pins = { rst := false, access := some (hostRead .status) } :: [] ∧
    (busyOn 1 0 [cycle (hostWrite .cmd 3)]).pins = { rst := false, access := some (hostWrite .cmd 3) } :: [] ∧
    (busyOn 1 0 [{ rst := true, access := none }]).pins = { rst := true, access := none } :: [] := by decide

theorem witness_ResetEntersResetState :
    (busyOn 1 4 [{ rst := true, access := some (hostWrite .config 1) }]).nextInput.rst = true := by decide

theorem witness_StepKeepsInvariant :
    (busyOn 1 0 []).Inv ∧ step (busyOn 1 0 []) = .next (after (step (busyOn 1 0 []))) :=
  ⟨⟨by decide, by decide, by decide, by decide, by decide, by decide, by decide, fun _ _ _ _ => rfl, nofun⟩, rfl⟩

theorem witness_AddWritesWrappingSum :
    (withOperands 3 1 2).wsel ≤ 3 ∧ 3 < (withOperands 4 1 2).wsel := by decide

theorem witness_SubWritesWrappingDifference :
    (withOperands 3 1 2).wsel ≤ 3 ∧ 3 < (withOperands 4 1 2).wsel := by decide

theorem witness_XorWritesExclusiveOr :
    (withOperands 3 1 2).wsel ≤ 3 ∧ 3 < (withOperands 4 1 2).wsel := by decide

theorem witness_RotlMovesEachBitLeft :
    (withOperands 3 1 2).wsel ≤ 3 ∧ 3 < (withOperands 4 1 2).wsel := by decide

theorem witness_RotrMovesEachBitRight :
    (withOperands 3 1 2).wsel ≤ 3 ∧ 3 < (withOperands 4 1 2).wsel := by decide

theorem witness_DeserLoadsBlockWords :
    (withOperands 3 1 2).wsel ≤ 3 ∧ 3 < (withOperands 4 1 2).wsel := by decide

theorem witness_SerStoresBlockBytes :
    (withOperands 3 1 2).wsel ≤ 3 ∧ 3 < (withOperands 4 1 2).wsel := by decide

theorem witness_DeserThenSerCopiesBlock :
    (withOperands 3 1 2).wsel ≤ 3 := by decide

theorem witness_EncRunsForwardTransform :
    (scheduled 3 [] []).width = some .w128 ∧ (scheduled 3 [] []).keyValid = true ∧
    (∀ k < Width.w128.bytes, wordByte (0#128 : Word .w128) k = (scheduled 3 [] []).dinByte k ∧
      wordByte (0#128 : Word .w128) k = (scheduled 3 [] []).dinByte (Width.w128.bytes + k)) ∧
    3 < (withOperands 4 0 0).wsel ∧ ((withOperands 3 0 0).wsel ≤ 3 ∧ (withOperands 3 0 0).keyValid = false) :=
  by decide +kernel

theorem witness_DecRunsInverseTransform :
    (scheduled 3 [] []).width = some .w128 ∧ (scheduled 3 [] []).keyValid = true ∧
    (∀ k < Width.w128.bytes, wordByte (0#128 : Word .w128) k = (scheduled 3 [] []).dinByte k ∧
      wordByte (0#128 : Word .w128) k = (scheduled 3 [] []).dinByte (Width.w128.bytes + k)) ∧
    3 < (withOperands 4 0 0).wsel ∧ ((withOperands 3 0 0).wsel ≤ 3 ∧ (withOperands 3 0 0).keyValid = false) :=
  by decide +kernel

theorem witness_DecUndoesEnc :
    (scheduled 3 [] (seq 32)).wsel ≤ 3 ∧ (scheduled 3 [] (seq 32)).keyValid = true := by decide +kernel

theorem witness_PackIsLittleEndian :
    (1 < Width.w16.bytes ∧ (pack .w16 5 fun k => BitVec.ofNat 8 (k + 1))[2]? = some 0x0005) ∧
    (pack .w32 0 fun _ => 1)[0]? = some 0 := by decide

theorem witness_KeyWordCountIsCeiling :
    0 < 2 ∧ 1 ≤ 1 ∧ 0 ≤ 1 * 2 ∧ keyWordCount 2 0 = 1 ∧ keyWordCount 2 256 = 128 ∧ keyWordCount 4 5 = 2 := by decide

theorem witness_SinitFollowsRecurrence :
    511 < 512 ∧ (sinit .w16 4)[3]? = some 0x9286 := by decide

theorem witness_MixFollowsRecurrence :
    ([0] : List (Word .w16)) ≠ [] ∧ ([1, 2] : List (Word .w16)) ≠ [] := by decide

theorem witness_KsDerivesExpandedKey :
    ({ State.reset with config := 0x1000FF03 }).width = some .w128 ∧
    ({ State.reset with config := 0x1000FF03 }).keyLen ≤ 256 ∧ ({ State.reset with config := 0x1000FF03 }).rounds ≤ 255 :=
  by decide

theorem witness_KsChecksInOrder :
    3 < ({ State.reset with config := 4 } : State).wsel ∧
    (({ State.reset with config := 0x10100003 } : State).wsel ≤ 3 ∧
      256 < ({ State.reset with config := 0x10100003 } : State).keyLen) ∧
    (({ State.reset with config := 0x10010003 } : State).wsel ≤ 3 ∧
      ({ State.reset with config := 0x10010003 } : State).keyLen ≤ 256 ∧
      255 < ({ State.reset with config := 0x10010003 } : State).rounds) ∧
    (({ State.reset with config := 0x1000FF03 } : State).wsel ≤ 3 ∧
      ({ State.reset with config := 0x1000FF03 } : State).keyLen ≤ 256 ∧
      ({ State.reset with config := 0x1000FF03 } : State).rounds ≤ 255) := by decide

theorem witness_KsDependsOnlyOnItsInputs :
    (∀ k < (keyed 0x00100000 [7]).keyLen, (keyed 0x00100000 [7]).keyByte k = (keyed 0x00100000 [7, 8]).keyByte k) ∧
    (keyed 0x00100000 [7]).keyLen = 1 ∧ (keyed 0x00100000 [7]).keyLen = (keyed 0x00100000 [7, 8]).keyLen ∧
    (keyed 0x00100000 [7]).wsel = (keyed 0x00100000 [7, 8]).wsel ∧
    (keyed 0x00100000 [7]).rounds = (keyed 0x00100000 [7, 8]).rounds ∧
    (keyed 0x00100000 [7]).wsel ≤ 3 ∧ (keyed 0x00100000 [7]).keyLen ≤ 256 ∧ (keyed 0x00100000 [7]).rounds ≤ 255 ∧
    exec .ks (keyed 0x00100000 [7]) = .next (after (exec .ks (keyed 0x00100000 [7]))) ∧
    exec .ks (keyed 0x00100000 [7, 8]) = .next (after (exec .ks (keyed 0x00100000 [7, 8]))) :=
  ⟨by decide, by decide, by decide, by decide, by decide, by decide, by decide, by decide, rfl, rfl⟩

theorem witness_CommandsWriteOnlyTheirOutputs :
    Instr.nop ≠ .ks ∧ Instr.ks ≠ .enc ∧ Instr.ks ≠ .dec ∧ Instr.ks ≠ .ser ∧ Instr.ser ≠ .deser ∧
    Instr.ser ≠ .add ∧ Instr.ser ≠ .sub ∧ Instr.ser ≠ .xor ∧ Instr.ser ≠ .rotl ∧ Instr.ser ≠ .rotr := by decide

theorem witness_FailingCommandWritesOnlyStatus :
    execWord 2 State.reset = .next (after (execWord 2 State.reset)) ∧ (after (execWord 2 State.reset)).err ≠ 0x0 :=
  ⟨rfl, by decide⟩

theorem witness_IllegalWordCompletesWithCodeNine :
    0x0000000A < (0x0000000B#32).toNat ∧ State.reset.engine = .idle := by decide

theorem witness_WordAndBytesAreInverse :
    (seq 16).length = Width.w128.bytes := by decide

theorem witness_ConfigWriteStoresFields :
    State.reset.engine = .idle := by decide

theorem witness_KeyWriteReplacesFourBytes :
    State.reset.engine = .idle := by decide

theorem witness_OperandWritesChangeOneRegister :
    State.reset.engine = .idle := by decide

theorem witness_WrittenValueIsReadBack :
    State.reset.engine = .idle ∧ (∃ k, Reg.key 63 = .key k) ∧ Reg.key 62 ≠ Reg.key 63 ∧ Reg.key 62 ≠ .status :=
  ⟨rfl, ⟨63, rfl⟩, by decide, by decide⟩

theorem witness_BusyEngineDropsInputWrites :
    (busyOn 1 0 []).busy = true ∧ (Reg.key 63).isInput ∧ (Reg.swin 511 3).isReadOnly ∧
    accessTarget { addr := 0x3FFC, write := true, size := 2, wdata := 0 } = none :=
  ⟨rfl, by simp [Reg.isInput], by simp [Reg.isReadOnly], by decide⟩

theorem witness_ReadOnlyWritesAreIgnored :
    Reg.id.isReadOnly := by simp [Reg.isReadOnly]

theorem witness_StatusReadsAndClears :
    (busyOn 7 3 []).busy = true ∧ (busyOn 7 3 []).engine = .busy 7 3 := by decide

theorem witness_RefusedAccessesChangeNothing :
    (∃ a : Access, a.size ≠ 2 ∧ a.write = true) ∧ (∃ a : Access, a.addr.toNat % 4 ≠ 0 ∧ a.write = false) ∧
    offsetReserved (0x014#14).toNat ∧
    ¬((2#2) ≠ 2 ∨ (0x2FFC#14).toNat % 4 ≠ 0 ∨ offsetReserved (0x2FFC#14).toNat) :=
  ⟨⟨{ addr := 0, write := true, size := 0, wdata := 0 }, by decide, rfl⟩,
    ⟨{ addr := 0x022, write := false, size := 2, wdata := 0 }, by decide, rfl⟩, by unfold offsetReserved; decide,
    by unfold offsetReserved; decide⟩

theorem witness_ReadsHaveNoSideEffect :
    State.reset.busy = false ∧ ¬Reg.status.isOpen := ⟨rfl, by simp [Reg.isOpen]⟩

theorem witness_BusyReadsOfOutputsAreOpen :
    (busyOn 1 0 []).busy = true ∧ (Reg.swin 0 0).isOpen ∧ State.reset.busy = false ∧ ¬(Reg.key 0).isOpen :=
  ⟨rfl, by simp [Reg.isOpen], rfl, by simp [Reg.isOpen]⟩

theorem witness_ReadOnlyRegistersShowState :
    3 < 4 ∧ 31 < 32 := by decide

theorem witness_LandedKeyWriteMakesScheduleStale :
    State.reset.engine = .idle ∧ (State.reset.access false (hostWrite .config 0x1FF1FF03)).wsel ≤ 3 ∧
    (∃ k, Reg.key 63 = .key k) ∧ (State.reset.access false (hostWrite (.key 63) 1)).wsel ≤ 3 :=
  ⟨rfl, by decide, ⟨63, rfl⟩, by decide⟩

theorem witness_HostCannotDisturbEngine :
    (busyOn 1 0 []).busy = true := by decide

theorem witness_KeyValidRisesOnlyByKs :
    step (busyOn 1 0 []) = .next (after (step (busyOn 1 0 []))) ∧ (busyOn 1 0 []).keyValid = false ∧
    (after (step (busyOn 1 0 []))).keyValid = true := ⟨rfl, rfl, by decide +kernel⟩

theorem witness_ErrIsWrittenOnlyAtCompletion :
    step (busyOn 2 0 []) = .next (after (step (busyOn 2 0 []))) ∧ (after (step (busyOn 2 0 []))).err ≠ (busyOn 2 0 []).err :=
  ⟨rfl, by decide⟩

theorem witness_CommandsStartByCmdWriteAndEndInDone :
    step (busyOn 0 0 []) = .next (after (step (busyOn 0 0 []))) ∧ (busyOn 0 0 []).done = false ∧
    (after (step (busyOn 0 0 []))).done = true ∧
    ({ State.reset with pins := [cycle (hostWrite .cmd 0)] } : State).engine = .idle ∧
    (after (step { State.reset with pins := [cycle (hostWrite .cmd 0)] })).busy = true :=
  ⟨rfl, rfl, by decide, rfl, by decide⟩

theorem witness_WbusyRecordsDroppedWrites :
    (step (busyOn 0 1 [cycle (hostWrite .cmd 1)]) = .next (after (step (busyOn 0 1 [cycle (hostWrite .cmd 1)]))) ∧
      (busyOn 0 1 [cycle (hostWrite .cmd 1)]).wbusy = false ∧
      (after (step (busyOn 0 1 [cycle (hostWrite .cmd 1)]))).wbusy = true) ∧
    ({ State.reset with wbusy := true, pins := [cycle (hostWrite .status 8)] } : State).wbusy = true ∧
    (after (step { State.reset with wbusy := true, pins := [cycle (hostWrite .status 8)] })).wbusy = false :=
  ⟨⟨rfl, rfl, by decide⟩, rfl, by decide⟩

theorem witness_IrqRisesOnlyByCompletionOrEnable :
    step { busyOn 0 0 [] with irqEn := 1 } = .next (after (step { busyOn 0 0 [] with irqEn := 1 })) ∧
    ({ busyOn 0 0 [] with irqEn := 1 } : State).irq = false ∧
    (after (step { busyOn 0 0 [] with irqEn := 1 })).irq = true := ⟨rfl, by decide, by decide⟩

theorem witness_InterruptIsEnabledRaisedAndAcknowledged :
    (({ busyOn 0 0 [] with irqEn := 1 } : State).engine = .busy 0 0 ∧
      ({ busyOn 0 0 [] with irqEn := 1 } : State).nextInput = CycleInput.quiet ∧
      ({ busyOn 0 0 [] with irqEn := 1 } : State).irqEn.getLsbD 0 = true) ∧
    ({ State.reset with pins := [cycle (hostWrite .status 2)] } : State).pins =
      { rst := false, access := some (hostWrite .status 2) } :: [] ∧ (2#32).getLsbD 1 = true := by decide

theorem witness_DriverRoundTrips :
    State.reset.engine = .idle ∧ (seq 256).length ≤ 256 ∧ 255 ≤ 255 ∧
    (seq 64).length % (2 * Width.w128.bytes) = 0 := by simp [seq, Width.bytes, Width.bits, State.reset]

theorem witness_DriverIsPure :
    State.reset.engine = .idle ∧ ({ State.reset with opa := 1, keyValid := true } : State).engine = .idle := by decide

end Sys2Proof.Tests
end

section
/-! PROOF. CONFIG, STATUS, PCONST and QCONST as the host writes and reads them (spec/10_state.md R25, R26, R28 to R33,
R39). -/

namespace Sys2Proof.Machine

/-- A register that R296 does not make open shows its value in every state, busy or idle. -/
theorem access_hostRead_not_open {r : Reg} (h : regOpenWhileBusy r = false) (s : State) (c : Bool) :
    s.access c (hostRead r) = s.respond .ok (some (s.regValue r)) := by
  rw [access_hostRead]
  rcases readReg_cases r s with ⟨-, hopen, -⟩ | ⟨-, e⟩
  · exact absurd hopen (by simp [h])
  · exact e

/-! A CONFIG write (spec/10_state.md R25, R26). -/

theorem access_configWrite_idle {s : State} (hi : s.engine = .idle) (c : Bool) (v : Reg32) :
    s.access c (hostWrite .config v) = (s.setConfig v).respond .ok none :=
  access_hostWrite_idle hi c .config v _ rfl

theorem setConfig_wsel (v : Reg32) (s : State) : (s.setConfig v).wsel = v.toNat % 2 ^ 3 := by
  obtain ⟨hw, -, -⟩ := configMask_fields v
  simp only [State.wsel, State.setConfig_config, hw, BitVec.extractLsb'_toNat, Nat.shiftRight_zero]

theorem setConfig_rounds (v : Reg32) (s : State) : (s.setConfig v).rounds = v.toNat / 2 ^ 8 % 2 ^ 9 := by
  obtain ⟨-, hr, -⟩ := configMask_fields v
  simp only [State.rounds, State.setConfig_config, hr, BitVec.extractLsb'_toNat, Nat.shiftRight_eq_div_pow]

theorem setConfig_keyLen (v : Reg32) (s : State) : (s.setConfig v).keyLen = v.toNat / 2 ^ 20 % 2 ^ 9 := by
  obtain ⟨-, -, hk⟩ := configMask_fields v
  simp only [State.keyLen, State.setConfig_config, hk, BitVec.extractLsb'_toNat, Nat.shiftRight_eq_div_pow]

/-- Settles O39: the write lands as `setConfig`, whose mask keeps exactly the three fields; CONFIG is not open, so the
read shows the masked value. -/
theorem configWriteStoresFields : Obligations.ConfigWriteStoresFields := by
  intro s c v hi
  rw [access_configWrite_idle hi, access_hostRead_not_open rfl]
  refine ⟨rfl, setConfig_wsel v s, setConfig_rounds v s, setConfig_keyLen v s, ?_⟩
  simp only [State.respond_response, State.regValue, State.respond_config, State.setConfig_config, configMask_value]

/-! STATUS (spec/10_state.md R28 to R33). -/

/-- A STATUS write lands busy or idle: R297 does not drop it. -/
theorem access_statusWrite (s : State) (c : Bool) (v : Reg32) :
    s.access c (hostWrite .status v) = (s.writeStatus c v).respond .ok none :=
  access_hostWrite s c .status v

/-- Appending one bit doubles the value and adds the bit. -/
theorem toNat_append_ofBool {n : Nat} (x : BitVec n) (b : Bool) :
    (x ++ BitVec.ofBool b).toNat = 2 * x.toNat + b.toNat := by
  have hb : (BitVec.ofBool b).toNat < 2 ^ 1 := (BitVec.ofBool b).isLt
  rw [BitVec.toNat_append, ← Nat.shiftLeft_add_eq_or_of_lt hb, BitVec.toNat_ofBool, Nat.shiftLeft_eq]
  omega

/-- STATUS as a number, field by field (spec/10_state.md R33). -/
theorem status_toNat (s : State) :
    s.status.toNat =
      s.busy.toNat + 2 * s.done.toNat + 4 * s.keyValid.toNat + 8 * s.wbusy.toNat + 16 * s.err.toNat := by
  have herr : (0#24 ++ s.err).toNat = s.err.toNat := by
    rw [BitVec.toNat_append, BitVec.toNat_zero, Nat.zero_shiftLeft, Nat.zero_or]
  simp only [State.status, toNat_append_ofBool, herr]
  omega

/-- Settles O45: a STATUS write is `writeStatus` in every state, and STATUS is not open, so a read shows its five
fields. -/
theorem statusReadsAndClears : Obligations.StatusReadsAndClears := by
  intro s v
  refine ⟨?_, ?_, ?_, fun c => ⟨s.status, ?_, status_toNat s, busy_iff s⟩⟩
  · rw [access_statusWrite]; rfl
  · simp [access_statusWrite]
  · simp [access_statusWrite]
  · rw [access_hostRead_not_open rfl]; rfl

/-! PCONST and QCONST (spec/10_state.md R39). -/

/-- The legal widths of WSEL as a chain of tests, the shape of the tables of spec/40_word_alu.md R125 and R126. -/
theorem widthOfWsel_eq_ite (n : Nat) :
    widthOfWsel n =
      if n = 0 then some .w16 else if n = 1 then some .w32 else if n = 2 then some .w64
      else if n = 3 then some .w128 else none := by
  match n with
  | 0 | 1 | 2 | 3 => rfl
  | n + 4 => simp [widthOfWsel]

/-- P_w of the width that CONFIG.WSEL selects (spec/40_word_alu.md R125). -/
theorem pconst_eq_table (s : State) :
    s.pconst =
      if s.wsel = 0 then 0xB7E1#128
      else if s.wsel = 1 then 0xB7E15163#128
      else if s.wsel = 2 then 0xB7E151628AED2A6B#128
      else if s.wsel = 3 then 0xB7E151628AED2A6ABF7158809CF4F3C7#128
      else 0#128 := by
  simp only [State.pconst, State.width, widthOfWsel_eq_ite]
  split_ifs <;> rfl

/-- Q_w of the width that CONFIG.WSEL selects (spec/40_word_alu.md R126). -/
theorem qconst_eq_table (s : State) :
    s.qconst =
      if s.wsel = 0 then 0x9E37#128
      else if s.wsel = 1 then 0x9E3779B9#128
      else if s.wsel = 2 then 0x9E3779B97F4A7C15#128
      else if s.wsel = 3 then 0x9E3779B97F4A7C15F39CC0605CEDC835#128
      else 0#128 := by
  simp only [State.qconst, State.width, widthOfWsel_eq_ite]
  split_ifs <;> rfl

/-- Settles O50: PCONST and QCONST are not open, so a read shows the quarter of the constant that CONFIG.WSEL selects
as it stands. -/
theorem constantsFollowConfig : Obligations.ConstantsFollowConfig := by
  intro s c k
  rw [access_hostRead_not_open rfl, access_hostRead_not_open rfl, ← pconst_eq_table, ← qconst_eq_table]
  exact ⟨rfl, rfl⟩

end Sys2Proof.Machine
end

section
/-! PROOF. Refused accesses and the reads of the window (spec/20_memory.md R63, R64, R70). -/

namespace Sys2Proof.Machine

/-! Which accesses the core refuses (spec/20_memory.md R63, R64). -/

/-- The low two bits of an offset are its remainder by 4, so R63's bus_addr[1:0] = 0 is alignment to 4 bytes. -/
theorem extractLsb'_low_eq_zero_iff {n : Nat} (off : BitVec n) :
    off.extractLsb' 0 2 = 0 ↔ off.toNat % 4 = 0 := by
  rw [← BitVec.toNat_inj, BitVec.extractLsb'_toNat, Nat.shiftRight_zero]
  rfl

/-- The register map has no register exactly in the ranges it marks reserved (spec/20_memory.md R64): the map's
tests as one proposition about the offset. -/
theorem regAt_eq_none_iff (off : BitVec 14) : regAt off = none ↔ offsetReserved off.toNat := by
  simp only [regAt, ite_eq_iff, Option.some_ne_none, and_false, false_or, and_true, offsetReserved]
  omega

/-- The core refuses an access exactly for its size, its alignment or a reserved offset. -/
theorem accessTarget_eq_none_iff (a : Access) :
    accessTarget a = none ↔ a.size ≠ 2 ∨ a.addr.toNat % 4 ≠ 0 ∨ offsetReserved a.addr.toNat := by
  rw [accessTarget, ite_eq_right_iff, extractLsb'_low_eq_zero_iff, regAt_eq_none_iff]
  tauto

/-! The answer of an access. -/

/-- A read of a register is answered with OK, whether the value is the register's or open. -/
theorem readReg_response_ok (r : Reg) (s : State) :
    ∃ d, (s.readReg r).response = some { resp := .ok, rdata := d } := by
  rcases readReg_cases r s with ⟨-, -, e⟩ | ⟨-, e⟩
  · exact ⟨_, congrArg State.response e⟩
  · exact ⟨_, congrArg State.response e⟩

/-- An access that reaches a register is answered with OK. -/
theorem access_response_ok {a : Access} {r : Reg} (h : accessTarget a = some r) (c : Bool) (s : State) :
    ∃ d, (s.access c a).response = some { resp := .ok, rdata := d } := by
  cases hw : a.write with
  | true => exact ⟨none, congrArg State.response (access_write h hw c s)⟩
  | false =>
    rw [access_read h hw]
    exact readReg_response_ok r s

/-- Settles O46: an access is refused exactly when it reaches no register, and `refuseAccess` only answers; an access
that reaches a register is answered with OK. -/
theorem refusedAccessesChangeNothing : Obligations.RefusedAccessesChangeNothing := by
  intro s c a
  rw [← accessTarget_eq_none_iff]
  refine ⟨fun h => ?_, fun h => ?_⟩
  · rw [access_refused h]
    exact ⟨fun hw => if_pos hw, fun hw => if_neg (by simp [hw])⟩
  · obtain ⟨r, hr⟩ := Option.ne_none_iff_exists'.mp h
    exact access_response_ok hr c s

/-! Reads of one register (spec/20_memory.md R70). -/

/-- A read that R296 does not open shows the register's value. -/
theorem readReg_not_open {r : Reg} {s : State} (h : s.busy = false ∨ regOpenWhileBusy r = false) :
    s.readReg r = s.respond .ok (some (s.regValue r)) :=
  if_neg (by simpa [imp_iff_not_or] using h)

/-- The answer of a transaction is no part of any register. -/
@[simp] theorem State.respond_regValue (p : BusResp) (d : Option Reg32) (s : State) (r : Reg) :
    (s.respond p d).regValue r = s.regValue r := by
  cases r <;> rfl

/-- A read changes only the response and the number of draws. -/
theorem readReg_frame (r : Reg) (s : State) :
    s.readReg r = { s with response := (s.readReg r).response, draws := (s.readReg r).draws } := by
  rcases readReg_cases r s with ⟨-, -, e⟩ | ⟨-, e⟩
  · rw [e]; rfl
  · rw [e]; rfl

/-- Settles O47: a read only answers, and an answer enters neither the engine nor any register, so a read that is not
open finds the same value again. -/
theorem readsHaveNoSideEffect : Obligations.ReadsHaveNoSideEffect := by
  intro s c r
  simp only [access_hostRead]
  refine ⟨readReg_frame r s, fun h => ?_⟩
  have hv : s.busy = false ∨ regOpenWhileBusy r = false := by simpa [isOpen_iff] using h
  rw [readReg_not_open hv, readReg_not_open (s := s.respond _ _) hv, State.respond_regValue]
  rfl

end Sys2Proof.Machine
end

section
/-! PROOF. Which command words are legal, and what every other word is decoded to (spec/30_encoding.md R96 to R100). -/

namespace Sys2Proof.Machine

/-! The fields of a command word (spec/30_encoding.md R91). -/

theorem wordRsvd_eq_zero_iff (v : Reg32) : wordRsvd v = 0 ↔ v.toNat < 16 := by
  have h : (wordRsvd v).toNat = v.toNat / 16 := by
    simp only [wordRsvd, BitVec.extractLsb'_toNat, Nat.shiftRight_eq_div_pow]
    omega
  rw [← BitVec.toNat_inj, h]
  exact Nat.div_eq_zero_iff.trans (or_iff_right (by decide))

theorem wordOpcode_toNat (v : Reg32) : (wordOpcode v).toNat = v.toNat % 16 := by
  simp [wordOpcode]

/-! The decoder. -/

/-- The opcode map: an opcode is that of one instruction's word, or is above those of all (spec/30_encoding.md R96,
R97). -/
theorem decodeOpcode_cases (o : BitVec 4) :
    (∃ i, o.toNat = (encode i).toNat ∧ decodeOpcode o = .ok i) ∨
    (11 ≤ o.toNat ∧ decodeOpcode o = .error .reservedOpcode) := by
  unfold decodeOpcode
  split
  case h_12 =>
    refine .inr ⟨?_, rfl⟩
    simp only [imp_false] at *
    omega
  all_goals exact .inl ⟨_, by assumption, rfl⟩

/-- What the decoder can answer: the instruction whose word it is, or one of the two kinds of illegal word. -/
theorem decode_cases (v : Reg32) :
    (∃ i, v = encode i ∧ decode v = .ok i) ∨
    (11 ≤ v.toNat ∧ v.toNat ≤ 15 ∧ decode v = .error .reservedOpcode) ∨
    (16 ≤ v.toNat ∧ decode v = .error .reservedBits) := by
  by_cases h : v.toNat < 16
  · have hd : decode v = decodeOpcode (wordOpcode v) := if_neg (not_not.mpr ((wordRsvd_eq_zero_iff v).mpr h))
    have ho : (wordOpcode v).toNat = v.toNat := by rw [wordOpcode_toNat, Nat.mod_eq_of_lt h]
    rw [hd, ← ho]
    rcases decodeOpcode_cases (wordOpcode v) with ⟨i, hi, e⟩ | ⟨hi, e⟩
    · exact .inl ⟨i, BitVec.eq_of_toNat_eq (ho ▸ hi), e⟩
    · exact .inr (.inl ⟨hi, by omega, e⟩)
  · exact .inr (.inr ⟨by omega, if_pos (mt (wordRsvd_eq_zero_iff v).mp h)⟩)

@[simp] theorem decode_encode (i : Instr) : decode (encode i) = .ok i := by
  cases i <;> rfl

/-- The command words are 0x0 to 0xA (spec/30_encoding.md R96). -/
theorem encode_toNat_lt (i : Instr) : (encode i).toNat < 11 := by
  cases i <;> decide

/-- Exactly the words of the eleven instructions are legal (spec/30_encoding.md R99). -/
theorem decode_eq_ok_iff (v : Reg32) (i : Instr) : decode v = .ok i ↔ v = encode i := by
  refine ⟨fun h => ?_, fun h => h ▸ decode_encode i⟩
  rcases decode_cases v with ⟨j, hv, e⟩ | ⟨-, -, e⟩ | ⟨-, e⟩
  · cases e.symm.trans h
    exact hv
  · cases e.symm.trans h
  · cases e.symm.trans h

theorem decode_eq_reservedBits_iff (v : Reg32) : decode v = .error .reservedBits ↔ 16 ≤ v.toNat := by
  rcases decode_cases v with ⟨i, rfl, e⟩ | ⟨_, _, e⟩ | ⟨_, e⟩
  · have := encode_toNat_lt i
    simp only [e, reduceCtorEq, false_iff]
    omega
  · simp only [e, Except.error.injEq, reduceCtorEq, false_iff]
    omega
  · simpa [e]

theorem decode_eq_reservedOpcode_iff (v : Reg32) :
    decode v = .error .reservedOpcode ↔ 11 ≤ v.toNat ∧ v.toNat ≤ 15 := by
  rcases decode_cases v with ⟨i, rfl, e⟩ | ⟨h, h', e⟩ | ⟨_, e⟩
  · have := encode_toNat_lt i
    simp only [e, reduceCtorEq, false_iff]
    omega
  · exact iff_of_true e ⟨h, h'⟩
  · simp only [e, Except.error.injEq, reduceCtorEq, false_iff]
    omega

/-- A CMD read is never open, and CMD shows 0 (spec/10_state.md R27). -/
theorem access_hostRead_cmd (c : Bool) (s : State) :
    s.access c (hostRead .cmd) = s.respond .ok (some 0x00000000) := by
  rw [access_hostRead, readReg_not_open (.inr rfl)]
  rfl

/-- Settles O2: the decoder answers by the ranges 0x0 to 0xA, 0xB to 0xF and 0x10 up, and in the first of them it
undoes the encoder. -/
theorem exactlyElevenLegalWords : Obligations.ExactlyElevenLegalWords :=
  ⟨decode_eq_ok_iff, decode_eq_reservedBits_iff, decode_eq_reservedOpcode_iff, rfl,
    fun c s => congrArg State.response (access_hostRead_cmd c s)⟩

end Sys2Proof.Machine
end

section
/-! PROOF. The ALU commands ADD, SUB, XOR, ROTL and ROTR (spec/40_word_alu.md R128 to R133). -/

namespace Sys2Proof.Machine

/-! The template `alu(op_w)`, its frame included (spec/40_word_alu.md R128). -/

variable {op : {w : Nat} → BitVec w → BitVec w → BitVec w} {s : State}

/-- With a legal WSEL an ALU command writes RES at the width w = 16 * 2^WSEL, and completes. -/
theorem aluCommand_legal (h : s.wsel ≤ 3) :
    ∃ w : Width, w.bits = 16 * 2 ^ s.wsel ∧
      aluCommand op s =
        { s with
          engine := .idle, done := true, err := 0x0
          res := zext128 (op (s.operandA w) (s.operandB w)) } := by
  obtain ⟨w, hw, hbits, -⟩ := exists_width h
  exact ⟨w, hbits, aluCommand_width hw⟩

/-- With WSEL 4 to 7 an ALU command only completes with InvalidWordSize. -/
theorem aluCommand_illegal (h : 3 < s.wsel) :
    aluCommand op s = { s with engine := .idle, done := true, err := 0x6 } :=
  aluCommand_no_width ((width_none_iff s).mpr h)

/-- What an ALU command does at every WSEL: a relation `Q` between the state before and the state after holds when it
follows from the value in RES. -/
theorem aluCommand_spec {Q : State → State → Prop}
    (hQ : ∀ (s t : State) (w : Width), w.bits = 16 * 2 ^ s.wsel →
      t.res = zext128 (op (s.operandA w) (s.operandB w)) → Q s t) :
    (∀ s : State, s.wsel ≤ 3 → ∃ t, (.next (aluCommand op s) : Host.Outcome State Fault Refusal) = .next t ∧
      t = { s with engine := .idle, done := true, err := 0x0, res := t.res } ∧ Q s t) ∧
    ∀ s : State, 3 < s.wsel → (.next (aluCommand op s) : Host.Outcome State Fault Refusal) =
      .next { s with engine := .idle, done := true, err := 0x6 } := by
  refine ⟨fun s h => ?_, fun s h => congrArg _ (aluCommand_illegal h)⟩
  obtain ⟨w, hw, e⟩ := aluCommand_legal (op := op) h
  exact ⟨_, congrArg _ e, rfl, hQ s _ w hw rfl⟩

/-! The operands, OPA and OPB reduced to w bits (spec/40_word_alu.md R120). -/

@[simp] theorem State.operandA_toNat (s : State) (w : Width) :
    (s.operandA w).toNat = s.opa.toNat % 2 ^ w.bits := BitVec.toNat_setWidth ..

@[simp] theorem State.operandB_toNat (s : State) (w : Width) :
    (s.operandB w).toNat = s.opb.toNat % 2 ^ w.bits := BitVec.toNat_setWidth ..

@[simp] theorem State.operandA_getLsbD (s : State) (w : Width) (k : Nat) :
    (s.operandA w).getLsbD k = (decide (k < w.bits) && s.opa.getLsbD k) := BitVec.getLsbD_setWidth ..

@[simp] theorem State.operandB_getLsbD (s : State) (w : Width) (k : Nat) :
    (s.operandB w).getLsbD k = (decide (k < w.bits) && s.opb.getLsbD k) := BitVec.getLsbD_setWidth ..

/-- A bit of OPA[w-1:0] whose number is reduced modulo w is that bit of OPA. -/
theorem operandA_getLsbD_mod (s : State) (w : Width) (j : Nat) :
    (s.operandA w).getLsbD (j % w.bits) = s.opa.getLsbD (j % w.bits) := by
  have hw : 0 < w.bits := by cases w <;> decide
  rw [State.operandA_getLsbD, decide_eq_true (Nat.mod_lt j hw), Bool.true_and]

/-! The primitives as functions of values and bits (spec/40_word_alu.md R121 to R123). -/

theorem addW_toNat {w : Nat} (a b : BitVec w) : (addW a b).toNat = (a.toNat + b.toNat) % 2 ^ w :=
  BitVec.toNat_ofNat ..

/-- The 2^w that R121 adds before it subtracts is what keeps the difference from below 0. -/
theorem subW_toNat_int {w : Nat} (a b : BitVec w) :
    ((subW a b).toNat : Int) = ((a.toNat : Int) - b.toNat) % 2 ^ w := by
  have hle : b.toNat ≤ a.toNat + 2 ^ w := by have := b.isLt; omega
  calc ((subW a b).toNat : Int)
      = ((a.toNat : Int) + 2 ^ w - b.toNat) % 2 ^ w := by
        rw [subW, BitVec.toNat_ofNat]
        push_cast [Nat.cast_sub hle]
        rfl
    _ = ((a.toNat : Int) - b.toNat) % 2 ^ w := by
        rw [add_sub_right_comm, Int.add_emod_right]

theorem rotlW_getLsbD {w : Nat} (x : BitVec w) (n k : Nat) :
    (rotlW x n).getLsbD k = (decide (k < w) && x.getLsbD ((k + w - n % w) % w)) := by
  by_cases hk : k < w
  · rw [rotlW_eq, getLsbD_rotateLeft_mod x n k hk, decide_eq_true hk, Bool.true_and]
  · rw [BitVec.getLsbD_of_ge _ k (by omega), decide_eq_false hk, Bool.false_and]

theorem rotrW_getLsbD {w : Nat} (x : BitVec w) (n k : Nat) :
    (rotrW x n).getLsbD k = (decide (k < w) && x.getLsbD ((k + n % w) % w)) := by
  by_cases hk : k < w
  · rw [rotrW_eq, getLsbD_rotateRight_mod x n k hk, decide_eq_true hk, Bool.true_and]
  · rw [BitVec.getLsbD_of_ge _ k (by omega), decide_eq_false hk, Bool.false_and]

/-! The commands. -/

/-- Settles O14: ADD is the ALU template at `addW`, the sum of the reduced operands modulo 2^w. -/
theorem addWritesWrappingSum : Obligations.AddWritesWrappingSum := by
  refine ⟨rfl, aluCommand_spec (op := addW) fun s t w hw hres => ?_⟩
  rw [hres, ← hw, zext128_toNat, addW_toNat, State.operandA_toNat, State.operandB_toNat]

/-- Settles O15: SUB is the ALU template at `subW`, the difference of the reduced operands modulo 2^w. -/
theorem subWritesWrappingDifference : Obligations.SubWritesWrappingDifference := by
  refine ⟨rfl, aluCommand_spec (op := subW) fun s t w hw hres => ?_⟩
  rw [hres, ← hw, zext128_toNat, subW_toNat_int, State.operandA_toNat, State.operandB_toNat]

/-- Settles O16: XOR is the ALU template at `xorW`, and below w the operands' bits are those of OPA and OPB. -/
theorem xorWritesExclusiveOr : Obligations.XorWritesExclusiveOr := by
  refine ⟨rfl, aluCommand_spec (op := xorW) fun s t w hw hres k => ?_⟩
  rw [hres, ← hw, zext128_getLsbD, xorW_eq, BitVec.getLsbD_xor, State.operandA_getLsbD, State.operandB_getLsbD,
    Bool.and_xor_distrib_left]

/-- Settles O17: ROTL is the ALU template at `rotlW`, whose bits come from places below w, where OPA[w-1:0] and OPA
agree. -/
theorem rotlMovesEachBitLeft : Obligations.RotlMovesEachBitLeft := by
  refine ⟨rfl, aluCommand_spec (op := fun a b => rotlW a b.toNat) fun s t w hw hres k => ?_⟩
  rw [hres, ← hw, zext128_getLsbD, rotlW_getLsbD, operandA_getLsbD_mod, State.operandB_toNat]

/-- Settles O18: ROTR is the ALU template at `rotrW`, whose bits come from places below w, where OPA[w-1:0] and OPA
agree. -/
theorem rotrMovesEachBitRight : Obligations.RotrMovesEachBitRight := by
  refine ⟨rfl, aluCommand_spec (op := fun a b => rotrW a b.toNat) fun s t w hw hres k => ?_⟩
  rw [hres, ← hw, zext128_getLsbD, rotrW_getLsbD, operandA_getLsbD_mod, State.operandB_toNat]

end Sys2Proof.Machine
end

section
/-! PROOF. The serializer commands DESER and SER (spec/41_serializer.md R153 to R157). -/

namespace Sys2Proof.Machine

variable {s : State} {w : Width}

/-! What the commands answer, with a legal width and without one. -/

theorem execDeser_width (h : s.width = some w) :
    execDeser s =
      .next ((s.setOperands (zext128 (s.deserBlock w).1) (zext128 (s.deserBlock w).2)).complete .none) := by
  simp only [execDeser, h]

theorem execDeser_no_width (h : s.width = none) : execDeser s = .next (s.complete .invalidWordSize) := by
  simp only [execDeser, h, State.raise_eq_complete]

theorem execSer_width (h : s.width = some w) :
    execSer s = .next ((s.setDout (serBlock w (s.operandA w) (s.operandB w))).complete .none) := by
  simp only [execSer, h]

theorem execSer_no_width (h : s.width = none) : execSer s = .next (s.complete .invalidWordSize) := by
  simp only [execSer, h, State.raise_eq_complete]

/-! The bytes they move. -/

/-- The bytes of a zero-extended word: those of the word below u, and 0 from u on. -/
theorem wordByte_zext128_eq_ite (x : Word w) (k : Nat) :
    wordByte (zext128 x) k = if k < w.bytes then wordByte x k else 0 := by
  rw [wordByte_zext128]
  split
  · rfl
  · exact wordByte_above x k (by have := width_bits_eq w; omega)

/-- The bytes DESER leaves in OPA: DIN_B[0..u-1], then 0. -/
theorem deserBlock_fst_byte (s : State) (w : Width) (k : Nat) :
    wordByte (zext128 (s.deserBlock w).1) k = if k < w.bytes then s.dinByte k else 0 := by
  rw [wordByte_zext128_eq_ite]
  refine if_ctx_congr Iff.rfl (fun hk => ?_) fun _ => rfl
  rw [State.deserBlock, wordByte_dinBytes s w 0 k hk, Nat.zero_add]

/-- The bytes DESER leaves in OPB: DIN_B[u..2u-1], then 0. -/
theorem deserBlock_snd_byte (s : State) (w : Width) (k : Nat) :
    wordByte (zext128 (s.deserBlock w).2) k = if k < w.bytes then s.dinByte (w.bytes + k) else 0 := by
  rw [wordByte_zext128_eq_ite]
  exact if_ctx_congr Iff.rfl (wordByte_dinBytes s w w.bytes k) fun _ => rfl

/-- The bytes SER leaves in DOUT: `serBlock` takes only bytes below u of each operand, where OPA[w-1:0] and OPA agree,
as do OPB[w-1:0] and OPB. -/
theorem serBlock_operands_byte (s : State) (w : Width) (n : Nat) (hn : n < 32) :
    blockByte (serBlock w (s.operandA w) (s.operandB w)) n =
      if n < w.bytes then wordByte s.opa n
      else if n < 2 * w.bytes then wordByte s.opb (n - w.bytes) else 0 := by
  rw [serBlock_byte w _ _ n hn]
  refine if_ctx_congr Iff.rfl (wordByte_setWidth s.opa n) fun hA => ?_
  exact if_ctx_congr Iff.rfl (fun hB => wordByte_setWidth s.opb (n - w.bytes) (by omega)) fun _ => rfl

/-! The commands. -/

/-- Settles O19: DESER puts the two words of the block, zero-extended, into OPA and OPB. -/
theorem deserLoadsBlockWords : Obligations.DeserLoadsBlockWords := by
  refine ⟨rfl, fun s h => ?_, fun s h => execDeser_no_width ((width_none_iff s).mpr h)⟩
  obtain ⟨w, hw, -, hu⟩ := exists_width h
  refine ⟨_, execDeser_width hw, rfl, fun k _ => ?_⟩
  rw [← hu]
  exact ⟨deserBlock_fst_byte s w k, deserBlock_snd_byte s w k⟩

/-- Settles O20: SER puts the block of OPA[w-1:0] and OPB[w-1:0] into DOUT, with 0 above it. -/
theorem serStoresBlockBytes : Obligations.SerStoresBlockBytes := by
  refine ⟨rfl, fun s h => ?_, fun s h => execSer_no_width ((width_none_iff s).mpr h)⟩
  obtain ⟨w, hw, -, hu⟩ := exists_width h
  refine ⟨_, execSer_width hw, rfl, fun n hn => ?_⟩
  rw [← hu]
  exact serBlock_operands_byte s w n hn

end Sys2Proof.Machine
end

section
/-! PROOF. The key scheduler: the mixing loop, and the checks of KS (spec/42_key_schedule.md R171, R175, R177). -/

namespace Sys2Proof.Machine

/-! Entries of a list, with a default. -/

theorem getD_set_of_lt {α : Type} {xs : List α} {n : Nat} (hn : n < xs.length) (x d : α) (i : Nat) :
    (xs.set n x).getD i d = if i = n then x else xs.getD i d := by
  split
  next h => rw [h, List.getD_eq_getElem _ _ (by rwa [List.length_set]), List.getElem_set_self]
  next h => rw [List.getD_eq_getElem?_getD, List.getElem?_set_ne (Ne.symm h), List.getD_eq_getElem?_getD]

theorem getElem?_eq_some_getD {α : Type} {xs : List α} (d : α) {i : Nat} (h : i < xs.length) :
    xs[i]? = some (xs.getD i d) := by
  rw [List.getD_eq_getElem _ _ h, List.getElem?_eq_getElem h]

/-! One iteration of the mixing loop, in the operations of R175. -/

section
variable {w : Nat} {m : MixState w}

theorem mixStep_i : (mixStep m).i = (m.i + 1) % m.s.length := rfl

theorem mixStep_j : (mixStep m).j = (m.j + 1) % m.l.length := rfl

theorem mixStep_a : (mixStep m).a = (m.s.getD m.i 0 + m.a + m.b).rotateLeft 3 := by
  simp only [mixStep, addW_eq, rotlW_eq]

theorem mixStep_b :
    (mixStep m).b =
      (m.l.getD m.j 0 + (mixStep m).a + m.b).rotateLeft (((mixStep m).a + m.b).toNat % w) := by
  simp only [mixStep, addW_eq, rotlW_eq]

theorem mixStep_s_getD (h : m.i < m.s.length) (i : Nat) :
    (mixStep m).s.getD i 0 = if i = m.i then (mixStep m).a else m.s.getD i 0 :=
  getD_set_of_lt h _ 0 i

theorem mixStep_l_getD (h : m.j < m.l.length) (j : Nat) :
    (mixStep m).l.getD j 0 = if j = m.j then (mixStep m).b else m.l.getD j 0 :=
  getD_set_of_lt h _ 0 j

end

/-! The run of the loop from R175's start. -/

/-- The mixing state before iteration k of `mix ls ss`; `mix ls ss` itself is one of these states (`mix_eq_mixAt`). -/
def mixAt {w : Nat} (ls ss : List (BitVec w)) (k : Nat) : MixState w :=
  mixLoop k { s := ss, l := ls, a := 0, b := 0, i := 0, j := 0 }

section
variable {w : Nat} {ls ss : List (BitVec w)} {k : Nat}

theorem mix_eq_mixAt : mix ls ss = mixAt ls ss (3 * max ss.length ls.length) := rfl

theorem mixAt_succ : mixAt ls ss (k + 1) = mixStep (mixAt ls ss k) := mixLoop_succ k _

@[simp] theorem mixAt_s_length : (mixAt ls ss k).s.length = ss.length := (mixLoop_lengths k _).1

@[simp] theorem mixAt_l_length : (mixAt ls ss k).l.length = ls.length := (mixLoop_lengths k _).2

theorem mixAt_i : (mixAt ls ss k).i = k % ss.length := by
  induction k with
  | zero => exact (Nat.zero_mod _).symm
  | succ k ih => rw [mixAt_succ, mixStep_i, ih, mixAt_s_length, Nat.mod_add_mod]

theorem mixAt_j : (mixAt ls ss k).j = k % ls.length := by
  induction k with
  | zero => exact (Nat.zero_mod _).symm
  | succ k ih => rw [mixAt_succ, mixStep_j, ih, mixAt_l_length, Nat.mod_add_mod]

/-- The mixing states of non-empty S and L follow R175, for any number of iterations. -/
theorem mixAt_mixTrace (hl : ls ≠ []) (hs : ss ≠ []) (n : Nat) :
    MixTrace ss.length ls.length n
      (fun k i => (mixAt ls ss k).s.getD i 0) (fun k j => (mixAt ls ss k).l.getD j 0)
      (fun k => (mixAt ls ss k).a) (fun k => (mixAt ls ss k).b) where
  a_start := rfl
  b_start := rfl
  a_step k _ := by rw [mixAt_succ, mixStep_a, mixAt_i]
  b_step k _ := by rw [mixAt_succ, mixStep_b, mixAt_j]
  s_step k _ i := by
    have hi : (mixAt ls ss k).i < (mixAt ls ss k).s.length := by
      rw [mixAt_i, mixAt_s_length]
      exact Nat.mod_lt k (List.length_pos_iff.mpr hs)
    rw [mixAt_succ, mixStep_s_getD hi, mixAt_i]
  l_step k _ j := by
    have hj : (mixAt ls ss k).j < (mixAt ls ss k).l.length := by
      rw [mixAt_j, mixAt_l_length]
      exact Nat.mod_lt k (List.length_pos_iff.mpr hl)
    rw [mixAt_succ, mixStep_l_getD hj, mixAt_j]

theorem mixAt_s_getElem? {i : Nat} (h : i < ss.length) :
    (mixAt ls ss k).s[i]? = some ((mixAt ls ss k).s.getD i 0) :=
  getElem?_eq_some_getD 0 (mixAt_s_length.symm ▸ h)

theorem mixAt_l_getElem? {j : Nat} (h : j < ls.length) :
    (mixAt ls ss k).l[j]? = some ((mixAt ls ss k).l.getD j 0) :=
  getElem?_eq_some_getD 0 (mixAt_l_length.symm ▸ h)

end

/-- Settles O29: the sequences are the entries and accumulators of the states `mixAt`, from the given words at k = 0 to
`mix` after the last iteration. -/
theorem mixFollowsRecurrence : Obligations.MixFollowsRecurrence := by
  intro w ls ss hl hs
  exact ⟨_, _, _, _, mixAt_mixTrace hl hs _,
    fun i hi => mixAt_s_getElem? (k := 0) hi, fun j hj => mixAt_l_getElem? (k := 0) hj,
    mixAt_s_length, mixAt_l_length, fun i hi => mixAt_s_getElem? hi, fun j hj => mixAt_l_getElem? hj⟩

/-! The checks of KS (spec/42_key_schedule.md R171). -/

section
variable {s : State} {w : Width}

theorem execKs_no_width (h : s.width = none) : execKs s = .next (s.complete .invalidWordSize) := by
  simp only [execKs, h, State.raise_eq_complete]

theorem execKs_long_key (h : s.width = some w) (hb : 256 < s.keyLen) :
    execKs s = .next (s.complete .invalidKeySize) := by
  simp only [execKs, h, if_pos hb, State.raise_eq_complete]

theorem execKs_many_rounds (h : s.width = some w) (hb : s.keyLen ≤ 256) (hr : 255 < s.rounds) :
    execKs s = .next (s.complete .invalidRoundsCount) := by
  simp only [execKs, h, if_neg (Nat.not_lt.mpr hb), if_pos hr, State.raise_eq_complete]

end

/-- Settles O31: the first check that fails decides the code KS completes with, and completing writes only the engine,
DONE and ERR; when none fails, KS sets the schedule and with it KEY_VALID. -/
theorem ksChecksInOrder : Obligations.KsChecksInOrder := by
  refine fun s => ⟨fun h => execKs_no_width ((width_none_iff s).mpr h), fun h hb => ?_, fun h hb hr => ?_,
    fun h hb hr => ?_⟩
  all_goals obtain ⟨w, hw⟩ := width_of_wsel h
  · exact execKs_long_key hw hb
  · exact execKs_many_rounds hw hb hr
  · exact ⟨_, execKs_ok hw hb hr, rfl, rfl⟩

end Sys2Proof.Machine
end

section
/-! PROOF. The block commands ENC and DEC and the transforms they run (spec/43_round_transform.md R200, R201, R205,
R206). -/

namespace Sys2Proof.Machine

/-! One round, in the operations of R200 and R201. -/

section
variable {w : Nat} (sk : Nat → BitVec w) (i : Nat) (p : BitVec w × BitVec w)

theorem fwdRound_fst :
    (fwdRound sk i p).1 = (p.1 ^^^ p.2).rotateLeft (p.2.toNat % w) + sk (2 * i) := by
  simp only [fwdRound, addW_eq, rotlW_eq, xorW_eq]

/-- The B step of a forward round reads the A that the round has just computed. -/
theorem fwdRound_snd :
    (fwdRound sk i p).2 =
      (p.2 ^^^ (fwdRound sk i p).1).rotateLeft ((fwdRound sk i p).1.toNat % w) + sk (2 * i + 1) := by
  simp only [fwdRound, addW_eq, rotlW_eq, xorW_eq]

theorem invRound_snd :
    (invRound sk i p).2 = (p.2 - sk (2 * i + 1)).rotateRight (p.1.toNat % w) ^^^ p.1 := by
  simp only [invRound, subW_eq, rotrW_eq, xorW_eq]

/-- The A step of an inverse round reads the B that the round has just computed. -/
theorem invRound_fst :
    (invRound sk i p).1 =
      (p.1 - sk (2 * i)).rotateRight ((invRound sk i p).2.toNat % w) ^^^ (invRound sk i p).2 := by
  simp only [invRound, subW_eq, rotrW_eq, xorW_eq]

end

/-! The forward transform (spec/43_round_transform.md R200). -/

section
variable {w : Nat} (sk : Nat → BitVec w)

theorem fwd_eq (r : Nat) (a b : BitVec w) : fwd sk r (a, b) = fwdRounds sk r (a + sk 0, b + sk 1) := by
  simp only [fwd, addW_eq]

/-- The words after the whitening and after each round follow R200. -/
theorem fwd_fwdTrace (r : Nat) (a b : BitVec w) :
    FwdTrace sk r a b (fun i => (fwd sk i (a, b)).1) (fun i => (fwd sk i (a, b)).2) where
  a_start := by rw [fwd_eq]; rfl
  b_start := by rw [fwd_eq]; rfl
  a_round _ _ := fwdRound_fst sk _ _
  b_round _ _ := fwdRound_snd sk _ _

end

/-! The inverse transform (spec/43_round_transform.md R201). -/

/-- The words of `invRounds sk r p` when the rounds r down to i + 1 are done: p itself at i = r (`invAt_self`), the
result of all rounds at i = 0 (`invAt_zero`). -/
def invAt {w : Nat} (sk : Nat → BitVec w) : Nat → BitVec w × BitVec w → Nat → BitVec w × BitVec w
  | 0, p, _ => p
  | r + 1, p, i => if i = r + 1 then p else invAt sk r (invRound sk (r + 1) p) i

section
variable {w : Nat} (sk : Nat → BitVec w)

theorem invAt_self (r : Nat) (p : BitVec w × BitVec w) : invAt sk r p r = p := by
  cases r with
  | zero => rfl
  | succ r => exact if_pos rfl

/-- Below its first round the transform of r + 1 rounds is that of r rounds on the result of the first. -/
theorem invAt_succ_of_le {r i : Nat} (h : i ≤ r) (p : BitVec w × BitVec w) :
    invAt sk (r + 1) p i = invAt sk r (invRound sk (r + 1) p) i :=
  if_neg (by omega)

theorem invAt_zero (r : Nat) (p : BitVec w × BitVec w) : invAt sk r p 0 = invRounds sk r p := by
  induction r generalizing p with
  | zero => rfl
  | succ r ih => rw [invAt_succ_of_le sk r.zero_le, ih, invRounds]

/-- Each i below r is reached from i + 1 by round i + 1. -/
theorem invAt_round {r i : Nat} (h : i < r) (p : BitVec w × BitVec w) :
    invAt sk r p i = invRound sk (i + 1) (invAt sk r p (i + 1)) := by
  induction r generalizing p with
  | zero => exact absurd h i.not_lt_zero
  | succ r ih =>
    rw [invAt_succ_of_le sk (Nat.le_of_lt_succ h)]
    rcases Nat.lt_succ_iff_lt_or_eq.mp h with hi | rfl
    · rw [ih hi, invAt_succ_of_le sk hi]
    · rw [invAt_self, invAt_self]

/-- The words after each inverse round follow R201. -/
theorem invAt_invTrace (r : Nat) (a b : BitVec w) :
    InvTrace sk r a b (fun i => (invAt sk r (a, b) i).1) (fun i => (invAt sk r (a, b) i).2) where
  a_start := by rw [invAt_self]
  b_start := by rw [invAt_self]
  b_round i hi := by rw [invAt_round sk hi, invRound_snd]
  a_round i hi := by rw [invAt_round sk hi, ← invRound_fst]

theorem inv_eq (r : Nat) (p : BitVec w × BitVec w) :
    inv sk r p = ((invAt sk r p 0).1 - sk 0, (invAt sk r p 0).2 - sk 1) := by
  simp only [inv, subW_eq, invAt_zero]

end

/-! The template of ENC and DEC (spec/43_round_transform.md R205, R206). -/

section
variable {f : {w : Nat} → (Nat → BitVec w) → Nat → BitVec w × BitVec w → BitVec w × BitVec w} {s : State}

theorem blockCommand_illegal (h : 3 < s.wsel) : blockCommand f s = s.complete .invalidWordSize := by
  simp only [blockCommand, (width_none_iff s).mpr h, State.raise_eq_complete]

theorem blockCommand_no_schedule (h : s.wsel ≤ 3) (hk : s.keyValid = false) :
    blockCommand f s = s.complete .noKeySchedule := by
  obtain ⟨w, hw⟩ := width_of_wsel h
  simp only [blockCommand, hw, if_pos hk, State.raise_eq_complete]

/-- On the words a and b of the block a block command puts into DOUT the words x and y of its transform. -/
theorem blockCommand_block {w : Width} {a b x y : Word w} (h : s.width = some w) (hk : s.keyValid = true)
    (hab : ∀ k < w.bytes, wordByte a k = s.dinByte k ∧ wordByte b k = s.dinByte (w.bytes + k))
    (hf : f (s.subkey w) s.rounds (a, b) = (x, y)) :
    blockCommand f s = (s.setDout (serBlock w x y)).complete .none := by
  rw [blockCommand_valid h hk, deserBlock_eq hab, hf]

end

/-! The commands. -/

/-- Settles O22: ENC is the block command of `fwd`, whose words after each round follow R200. -/
theorem encRunsForwardTransform : Obligations.EncRunsForwardTransform := by
  refine ⟨rfl, fun s w a b hw hk hab => ?_, fun s h => congrArg Host.Outcome.next (blockCommand_illegal h),
    fun s h hk => congrArg Host.Outcome.next (blockCommand_no_schedule h hk)⟩
  exact ⟨_, _, _, congrArg Host.Outcome.next (blockCommand_block hw hk hab rfl), rfl, fwd_fwdTrace _ _ a b,
    serBlock_byte w _ _⟩

/-- Settles O23: DEC is the block command of `inv`, whose words after each round follow R201, before S[0] and S[1]
are subtracted. -/
theorem decRunsInverseTransform : Obligations.DecRunsInverseTransform := by
  refine ⟨rfl, fun s w a b hw hk hab => ?_, fun s h => congrArg Host.Outcome.next (blockCommand_illegal h),
    fun s h hk => congrArg Host.Outcome.next (blockCommand_no_schedule h hk)⟩
  exact ⟨_, _, _, congrArg Host.Outcome.next (blockCommand_block hw hk hab (inv_eq ..)), rfl, invAt_invTrace _ _ a b,
    serBlock_byte w _ _⟩

end Sys2Proof.Machine
end

section
/-! PROOF. The control commands: NOP, the illegal command words, and the acceptance of a word (spec/44_control.md R230
to R232). -/

namespace Sys2Proof.Machine

/-! NOP (spec/44_control.md R230). -/

/-- Settles O13: NOP only completes, with code 0; no test of CONFIG.WSEL stands before it. -/
theorem nopCompletes : Obligations.NopCompletes :=
  ⟨rfl, execNop_eq⟩

/-! The acceptance of a command word (spec/44_control.md R232). -/

/-- The only word that decodes to KS is its own. -/
theorem wordIsKs_eq_true_iff (v : Reg32) : wordIsKs v = true ↔ v = 0x00000001#32 := by
  rw [show 0x00000001#32 = encode .ks from rfl, ← decode_eq_ok_iff, wordIsKs]
  cases decode v <;> simp

/-- Acceptance clears KEY_VALID exactly for the word of KS. -/
theorem accept_keyValid_eq_ite (v : Reg32) (s : State) :
    (s.accept v).keyValid = if v = 0x00000001#32 then false else s.keyValid := by
  rw [State.accept_keyValid]
  split
  next h => rw [(wordIsKs_eq_true_iff v).mpr h, Bool.not_true, Bool.and_false]
  next h =>
    have hks : wordIsKs v = false := Bool.eq_false_iff.mpr (mt (wordIsKs_eq_true_iff v).mp h)
    rw [hks, Bool.not_false, Bool.and_true]

/-- What the acceptance of a word writes; the latency it draws is open. -/
theorem accept_eq (v : Reg32) (s : State) :
    s.accept v =
      { s with
        engine := .busy v (commandLatency v s)
        done := false
        keyValid := if v = 0x00000001#32 then false else s.keyValid
        draws := s.draws + 1 } := by
  rw [← accept_keyValid_eq_ite]
  rfl

theorem access_cmdWrite_idle {s : State} (hi : s.engine = .idle) (c : Bool) (v : Reg32) :
    s.access c (hostWrite .cmd v) = (s.accept v).respond .ok none :=
  access_hostWrite_idle hi c .cmd v _ rfl

theorem access_cmdWrite_busy {s : State} {v' : Reg32} {n : Nat} (hb : s.engine = .busy v' n) (c : Bool) (v : Reg32) :
    s.access c (hostWrite .cmd v) = s.dropWrite.respond .ok none := by
  rw [access_hostWrite]
  exact congrArg _ (whenIdle_busy hb (State.accept v))

/-- Settles O7: on an idle engine a CMD write is `accept`, whose drawn latency is the number of cycles; on a busy one
it is dropped. -/
theorem commandIsAccepted : Obligations.CommandIsAccepted := by
  refine ⟨fun s c v hi => ⟨commandLatency v s, ?_⟩, fun s c v v' n hb => access_cmdWrite_busy hb c v⟩
  rw [access_cmdWrite_idle hi, accept_eq]
  rfl

/-! Illegal command words (spec/44_control.md R231). -/

/-- A word above those of the eleven instructions completes with IllegalCommand and does nothing else. -/
theorem execWord_illegal {v : Reg32} (h : 0x0000000A < v.toNat) (s : State) :
    execWord v s = .next (s.complete .illegalCommand) := by
  rcases execWord_cases v s with ⟨i, hd, -⟩ | ⟨-, -, e⟩
  · have hlegal : v.toNat < 11 := (decode_eq_ok_iff v i).mp hd ▸ encode_toNat_lt i
    omega
  · exact e

/-- Settles O36: the completion is that of an illegal word; the acceptance is that of any word, and as the word is not
that of KS, KEY_VALID stays. -/
theorem illegalWordCompletesWithCodeNine : Obligations.IllegalWordCompletesWithCodeNine := by
  refine fun v h => ⟨execWord_illegal h, fun s c hi => ⟨commandLatency v s, ?_⟩⟩
  have hks : v ≠ 0x00000001#32 := by
    rintro rfl
    exact absurd h (by decide)
  rw [access_cmdWrite_idle hi, accept_eq, if_neg hks]
  rfl

end Sys2Proof.Machine
end

section
/-! PROOF. Errors and completions: a completion before the transaction of its cycle, and the code a command word
reports (spec/60_exceptions.md R262, R263). -/

namespace Sys2Proof.Machine

/-! A completion and a transaction in one cycle (spec/60_exceptions.md R263). -/

/-- At a command's last cycle the transaction acts on the completed state, and is told of the completion. -/
theorem step_access_after_completion {s : State} {v : Reg32} {a : Access} {rest : List CycleInput}
    (he : s.engine = .busy v 0) (hp : s.pins = { rst := false, access := some a } :: rest) :
    ∃ m : State, m.engine = .idle ∧ m.done = true ∧ step s = .next (m.access true a) := by
  obtain ⟨m, hm⟩ := execWord_next v s.beginCycle
  obtain ⟨hidle, hdone⟩ := execWord_completes hm
  have hin := nextInput_cons hp
  refine ⟨m, hidle, hdone, ?_⟩
  rw [step_completes (by rw [hin]) he hm, hin, busEdge_access true m rfl]

/-- STATUS[0] is BUSY (spec/10_state.md R33). -/
theorem status_getLsbD_zero (s : State) : s.status.getLsbD 0 = s.busy := by
  simp only [State.status, BitVec.getLsbD_append]
  simp

/-- STATUS[1] is DONE (spec/10_state.md R33). -/
theorem status_getLsbD_one (s : State) : s.status.getLsbD 1 = s.done := by
  simp only [State.status, BitVec.getLsbD_append]
  simp

/-- A cycle with rst = 1 leaves no command and no completion, with an access or without one
(spec/70_reset_and_hazards.md R290, R292). -/
theorem resetCycle_no_completion (inp : CycleInput) (s : State) :
    (s.resetCycle inp).engine = .idle ∧ (s.resetCycle inp).done = false ∧ (s.resetCycle inp).err = 0 := by
  unfold State.resetCycle
  cases inp.access with
  | none => exact ⟨rfl, rfl, rfl⟩
  | some a => exact ⟨rfl, rfl, rfl⟩

/-- Settles O9: the transaction acts on the completed state `m`, where the engine is idle and DONE is 1; a reset cycle
runs no engine edge at all. -/
theorem completionComesFirstInItsCycle : Obligations.CompletionComesFirstInItsCycle := by
  refine fun s v x rest he => ⟨fun hp => ?_, fun hp => ?_, fun hp => ?_, fun a hp => ?_⟩
  · obtain ⟨m, hidle, hdone, hstep⟩ := step_access_after_completion he hp
    rw [access_statusWrite] at hstep
    exact ⟨_, hstep, by simp [State.writeStatus, hdone], busy_idle hidle⟩
  · obtain ⟨m, hidle, hdone, hstep⟩ := step_access_after_completion he hp
    rw [access_hostRead_not_open rfl] at hstep
    exact ⟨_, m.status, hstep, rfl, (status_getLsbD_zero m).trans (busy_idle hidle),
      (status_getLsbD_one m).trans hdone, status_err m⟩
  · obtain ⟨m, hidle, -, hstep⟩ := step_access_after_completion he hp
    rw [access_cmdWrite_idle hidle] at hstep
    exact ⟨_, commandLatency x m, hstep, rfl, rfl⟩
  · have hrst : s.nextInput.rst = true := by rw [nextInput_cons hp]
    exact ⟨_, step_reset hrst, resetCycle_no_completion _ _⟩

/-! The code each command completes with (spec/60_exceptions.md R262). -/

theorem aluCommand_err (op : {w : Nat} → BitVec w → BitVec w → BitVec w) (s : State) :
    (aluCommand op s).err = if 3 < s.wsel then 0x6 else 0x0 := by
  rcases aluCommand_cases op s with ⟨hw, e⟩ | ⟨w, hw, e⟩
  · rw [e, if_pos ((width_none_iff s).mp hw)]; rfl
  · rw [e, if_neg (width_bits hw).1.not_gt]; rfl

theorem blockCommand_err
    (f : {w : Nat} → (Nat → BitVec w) → Nat → BitVec w × BitVec w → BitVec w × BitVec w) (s : State) :
    (blockCommand f s).err = if 3 < s.wsel then 0x6 else if s.keyValid = false then 0x8 else 0x0 := by
  rcases blockCommand_cases f s with ⟨hw, e⟩ | ⟨hw, hk, e⟩ | ⟨w, hw, hk, e⟩
  · rw [e, if_pos ((width_none_iff s).mp hw)]; rfl
  · rw [e, if_neg (mt (width_none_iff s).mpr hw), if_pos hk]; rfl
  · rw [e, if_neg (width_bits hw).1.not_gt, if_neg (by simp [hk])]; rfl

theorem execKs_err (s : State) :
    ∃ t, execKs s = .next t ∧
      t.err = if 3 < s.wsel then 0x6 else if 256 < s.keyLen then 0x5 else if 255 < s.rounds then 0x7 else 0x0 := by
  rcases execKs_cases s with ⟨hw, e⟩ | ⟨hw, hb, e⟩ | ⟨hw, hb, hr, e⟩ | ⟨w, hw, hb, hr, e⟩
  · exact ⟨_, e, by rw [if_pos ((width_none_iff s).mp hw)]; rfl⟩
  · exact ⟨_, e, by rw [if_neg (mt (width_none_iff s).mpr hw), if_pos hb]; rfl⟩
  · exact ⟨_, e, by rw [if_neg (mt (width_none_iff s).mpr hw), if_neg hb.not_gt, if_pos hr]; rfl⟩
  · exact ⟨_, e, by rw [if_neg (width_bits hw).1.not_gt, if_neg hb.not_gt, if_neg hr.not_gt]; rfl⟩

theorem execDeser_err (s : State) : ∃ t, execDeser s = .next t ∧ t.err = if 3 < s.wsel then 0x6 else 0x0 := by
  rcases execDeser_cases s with ⟨hw, e⟩ | ⟨w, hw, e⟩
  · exact ⟨_, e, by rw [if_pos ((width_none_iff s).mp hw)]; rfl⟩
  · exact ⟨_, e, by rw [if_neg (width_bits hw).1.not_gt]; rfl⟩

theorem execSer_err (s : State) : ∃ t, execSer s = .next t ∧ t.err = if 3 < s.wsel then 0x6 else 0x0 := by
  rcases execSer_cases s with ⟨hw, e⟩ | ⟨w, hw, e⟩
  · exact ⟨_, e, by rw [if_pos ((width_none_iff s).mp hw)]; rfl⟩
  · exact ⟨_, e, by rw [if_neg (width_bits hw).1.not_gt]; rfl⟩

/-- R262's order over the instructions: NOP tests nothing, every other command tests WSEL first, and only KS, ENC and
DEC test anything else. -/
theorem exec_err (i : Instr) (s : State) :
    ∃ t, exec i s = .next t ∧
      t.err =
        if i = .nop then 0x0
        else if 3 < s.wsel then 0x6
        else if i = .ks ∧ 256 < s.keyLen then 0x5
        else if i = .ks ∧ 255 < s.rounds then 0x7
        else if (i = .enc ∨ i = .dec) ∧ s.keyValid = false then 0x8
        else 0x0 := by
  cases i with
  | nop => exact ⟨_, execNop_eq s, rfl⟩
  | ks => simpa [exec] using execKs_err s
  | enc => exact ⟨_, rfl, by simpa using blockCommand_err fwd s⟩
  | dec => exact ⟨_, rfl, by simpa using blockCommand_err inv s⟩
  | add => exact ⟨_, rfl, by simpa using aluCommand_err addW s⟩
  | sub => exact ⟨_, rfl, by simpa using aluCommand_err subW s⟩
  | xor => exact ⟨_, rfl, by simpa using aluCommand_err xorW s⟩
  | rotl => exact ⟨_, rfl, by simpa using aluCommand_err (fun a b => rotlW a b.toNat) s⟩
  | rotr => exact ⟨_, rfl, by simpa using aluCommand_err (fun a b => rotrW a b.toNat) s⟩
  | deser => simpa [exec] using execDeser_err s
  | ser => simpa [exec] using execSer_err s

/-! The code a command word completes with. -/

theorem encode_inj (i j : Instr) : encode i = encode j ↔ i = j := by
  rw [← decode_eq_ok_iff, decode_encode, Except.ok.injEq]

theorem execWord_encode (i : Instr) (s : State) : execWord (encode i) s = exec i s := by
  rw [execWord, decode_encode]

/-- Settles O34: a word above 0xA completes as an illegal one; any other is the word of one instruction, and the words
the statement names are those of NOP, KS, ENC and DEC. -/
theorem errorsFollowPriority : Obligations.ErrorsFollowPriority := by
  intro v s
  by_cases hv : 0x0000000A < v.toNat
  · exact ⟨_, execWord_illegal hv s, (if_pos hv).symm⟩
  · obtain ⟨i, rfl⟩ : ∃ i, v = encode i := by
      rcases decode_cases v with ⟨i, hi, -⟩ | ⟨h, -⟩ | ⟨h, -⟩
      · exact ⟨i, hi⟩
      · omega
      · omega
    obtain ⟨t, ht, herr⟩ := exec_err i s
    refine ⟨t, (execWord_encode i s).trans ht, ?_⟩
    rw [if_neg hv, herr]
    simp only [← encode_inj]
    rfl

end Sys2Proof.Machine
end

section
/-! PROOF. What a busy engine does to the host's writes and reads (spec/70_reset_and_hazards.md R296, R297). -/

namespace Sys2Proof.Machine

/-! Writes (spec/70_reset_and_hazards.md R297). -/

/-- The write of an input register is one the busy engine drops. -/
theorem writeReg_input_busy {r : Reg} {s : State} (hr : r.isInput) (hb : s.busy = true) (c : Bool) (v : Reg32) :
    s.writeReg c r v = s.dropWrite := by
  obtain ⟨v', n, he⟩ := (busy_iff s).mp hb
  rcases hr with rfl | rfl | ⟨k, rfl⟩ | ⟨k, rfl⟩ | ⟨k, rfl⟩ | ⟨k, rfl⟩ <;> exact whenIdle_busy he _

/-- A refused access leaves WBUSY as it was, busy or idle. -/
theorem refuseAccess_wbusy (a : Access) (s : State) : (s.refuseAccess a).wbusy = s.wbusy := by
  rcases refuseAccess_cases a s with ⟨-, e⟩ | ⟨-, e⟩
  · rw [e, State.respond_wbusy]
  · rw [e, State.respondFree_wbusy]

/-- Settles O43: a write of an input register is `dropWrite`, which only sets WBUSY; IRQ_EN and STATUS take no part in
the drop, and a write of a read-only register or a refused access only answers. -/
theorem busyEngineDropsInputWrites : Obligations.BusyEngineDropsInputWrites := by
  intro s c v hb
  refine ⟨fun r hr => ?input, ?irqEn, ?status, fun r hr => ?readOnly, fun a ha => ?refused⟩
  case input => rw [access_hostWrite, writeReg_input_busy hr hb]; rfl
  case irqEn => exact access_hostWrite s c .irqEn v
  case status => exact access_statusWrite s false v
  case readOnly => rw [access_hostWrite, writeReg_readOnly hr, State.respond_wbusy]
  case refused => rw [access_refused ha, refuseAccess_wbusy]

/-! Reads (spec/70_reset_and_hazards.md R296). -/

/-- While the engine is busy a read of an open register is answered with a fresh value. -/
theorem readReg_open {r : Reg} {s : State} (hb : s.busy = true) (hr : regOpenWhileBusy r = true) :
    s.readReg r = s.respondFree .ok :=
  if_pos (by rw [hb, hr]; rfl)

/-- Settles O48: the statement's open registers are those `readReg` tests for, and its two cases are that test. -/
theorem busyReadsOfOutputsAreOpen : Obligations.BusyReadsOfOutputsAreOpen := by
  intro s c r
  rw [access_hostRead, isOpen_iff, Bool.not_eq_true]
  exact ⟨readReg_open, readReg_not_open⟩

end Sys2Proof.Machine
end

section
/-! PROOF. The invariant of every reachable state: it holds at reset and every step keeps it (spec/10_state.md,
spec/42_key_schedule.md R179). -/

namespace Sys2Proof.Machine

/-! Reset (spec/10_state.md R46). -/

theorem reset_inv : State.reset.Inv where
  keybuf_wf := memory_nil_wf 256
  subkeys_wf := memory_nil_wf 512
  keyWords_wf := memory_nil_wf 128
  config_reserved := by decide
  irqEn_reserved := by decide
  err_raised := .inl rfl
  busy_not_done := nofun
  ks_not_valid := nofun
  key_valid_current := nofun

/-- Settles O11: at reset the RAMs list nothing, and the engine is idle with KEY_VALID 0. -/
theorem invariantHoldsAtReset : Obligations.InvariantHoldsAtReset := reset_inv

section
variable {s t : State}

/-- A cycle with rst = 1 is the reset edge, with an answer and a draw if there is an access. -/
theorem resetCycle_eq (inp : CycleInput) (s : State) :
    ∃ r d, s.resetCycle inp = { s.resetEdge with response := r, draws := d } := by
  unfold State.resetCycle
  cases inp.access with
  | none => exact ⟨_, _, rfl⟩
  | some a => exact ⟨_, _, rfl⟩

theorem resetCycle_inv (inp : CycleInput) (s : State) : (s.resetCycle inp).Inv := by
  obtain ⟨r, d, e⟩ := resetCycle_eq inp s
  rw [e]
  exact { reset_inv with key_valid_current := nofun }

/-! The updates of the state that the invariant does not see. -/

theorem State.Inv.respond (h : s.Inv) (p : BusResp) (d : Option Reg32) : (s.respond p d).Inv := { h with }

theorem State.Inv.respondFree (h : s.Inv) (p : BusResp) : (s.respondFree p).Inv := { h with }

theorem State.Inv.beginCycle (h : s.Inv) : s.beginCycle.Inv := { h with }

theorem State.Inv.dropWrite (h : s.Inv) : s.dropWrite.Inv := { h with }

theorem State.Inv.setDin (h : s.Inv) (k : Fin 8) (v : Reg32) : (s.setDin k v).Inv := { h with }

theorem State.Inv.setOpa (h : s.Inv) (k : Fin 4) (v : Reg32) : (s.setOpa k v).Inv := { h with }

theorem State.Inv.setOpb (h : s.Inv) (k : Fin 4) (v : Reg32) : (s.setOpb k v).Inv := { h with }

theorem State.Inv.setRes (h : s.Inv) (x : Reg128) : (s.setRes x).Inv := { h with }

theorem State.Inv.setDout (h : s.Inv) (v : Vector Reg32 8) : (s.setDout v).Inv := { h with }

theorem State.Inv.setOperands (h : s.Inv) (a b : Reg128) : (s.setOperands a b).Inv := { h with }

/-! The updates that touch what the invariant speaks of. -/

theorem State.Inv.setIrqEn (h : s.Inv) (v : Reg32) : (s.setIrqEn v).Inv :=
  { h with irqEn_reserved := by rw [State.setIrqEn_irqEn, BitVec.and_assoc, BitVec.and_self] }

/-- A STATUS write only clears flags. -/
theorem State.Inv.writeStatus (h : s.Inv) (c : Bool) (v : Reg32) : (s.writeStatus c v).Inv :=
  { h with busy_not_done := fun hb => by simp [State.writeStatus, h.busy_not_done hb] }

/-- The mask of a CONFIG write clears the reserved bits, and KEY_VALID falls with the old CONFIG. -/
theorem State.Inv.setConfig (h : s.Inv) (v : Reg32) : (s.setConfig v).Inv :=
  { h with
    config_reserved := by rw [State.setConfig_config, BitVec.and_assoc, BitVec.and_self]
    ks_not_valid := fun _ _ _ _ => rfl
    key_valid_current := nofun }

/-- A KEY write stays inside KEYBUF, and KEY_VALID falls with the old key. -/
theorem State.Inv.setKey (h : s.Inv) (k : Fin 64) (v : Reg32) : (s.setKey k v).Inv :=
  { h with
    keybuf_wf := memWriteList_wf _ h.keybuf_wf (by simp only [List.length_cons, List.length_nil]; omega)
    ks_not_valid := fun _ _ _ _ => rfl
    key_valid_current := nofun }

/-- Acceptance clears DONE, and KEY_VALID if the word is that of KS. -/
theorem State.Inv.accept (h : s.Inv) (v : Reg32) : (s.accept v).Inv :=
  { h with
    busy_not_done := fun _ => rfl
    ks_not_valid := fun v' n he hks => by
      cases he
      simp [hks]
    key_valid_current := fun hk => h.key_valid_current (Bool.and_eq_true_iff.mp hk).1 }

theorem State.Inv.runOn (h : s.Inv) {v : Reg32} {n : Nat} (he : s.engine = .busy v (n + 1)) :
    (s.runOn v n).Inv :=
  { h with
    busy_not_done := fun _ => h.busy_not_done (busy_busy he)
    ks_not_valid := fun v' n' he' hks => by
      cases he'
      exact h.ks_not_valid v (n + 1) he hks }

/-! The bus. -/

theorem State.Inv.writeReg (h : s.Inv) (c : Bool) (r : Reg) (v : Reg32) : (s.writeReg c r v).Inv := by
  rcases writeReg_cases c r v s with
    e | e | e | ⟨-, e⟩ | ⟨-, e | e | ⟨k, e⟩ | ⟨k, e⟩ | ⟨k, e⟩ | ⟨k, e⟩⟩ <;> rw [e]
  · exact h
  · exact h.writeStatus c v
  · exact h.setIrqEn v
  · exact h.dropWrite
  · exact h.setConfig v
  · exact h.accept v
  · exact h.setDin k v
  · exact h.setOpa k v
  · exact h.setOpb k v
  · exact h.setKey k v

theorem State.Inv.access (h : s.Inv) (c : Bool) (a : Access) : (s.access c a).Inv :=
  access_keeps State.Inv c a s (fun _ p d ht => ht.respond p d) (fun _ p ht => ht.respondFree p)
    (fun r v hs => hs.writeReg c r v) h

theorem State.Inv.busEdge (h : s.Inv) (c : Bool) (inp : CycleInput) : (s.busEdge c inp).Inv := by
  unfold State.busEdge
  cases inp.access with
  | none => exact h
  | some a => exact h.access c a

/-! The commands. -/

/-- The codes a command can complete with: those of the errors the core raises, and 0 (spec/60_exceptions.md R251). -/
def IsRaisedCode (e : BitVec 4) : Prop := e = 0x0 ∨ e = 0x5 ∨ e = 0x6 ∨ e = 0x7 ∨ e = 0x8 ∨ e = 0x9

theorem exec_isRaisedCode {i : Instr} (ht : exec i s = .next t) : IsRaisedCode t.err := by
  obtain ⟨t', ht', herr⟩ := exec_err i s
  cases ht.symm.trans ht'
  rw [herr, IsRaisedCode]
  split_ifs <;> simp

theorem State.Inv.complete (h : s.Inv) {c : ErrorKind} (hc : IsRaisedCode (s.complete c).err) : (s.complete c).Inv :=
  { h with err_raised := hc, busy_not_done := nofun, ks_not_valid := nofun }

/-- What a successful KS leaves in S (spec/42_key_schedule.md R177). -/
theorem withSchedule_subkeys_lookup (w : Width) (s : State) (i : Nat) :
    memLookup (s.withSchedule w).subkeys i =
      if i < subkeyCount s.rounds then ((keySchedule w s.rounds s.keyLen s.keyByte).s[i]?).map zext128
      else memLookup s.subkeys i := by
  refine (memLookup_memWriteList _ _ 0 i).trans ?_
  simp [keySchedule_s_length]

/-- What a successful KS leaves in L. -/
theorem withSchedule_keyWords_lookup (w : Width) (s : State) (j : Nat) :
    memLookup (s.withSchedule w).keyWords j =
      if j < keyWordCount w.bytes s.keyLen then ((keySchedule w s.rounds s.keyLen s.keyByte).l[j]?).map zext128
      else memLookup s.keyWords j := by
  refine (memLookup_memWriteList _ _ 0 j).trans ?_
  simp [keySchedule_l_length]

/-- After a successful KS, S[0..t-1] is the expanded key of CONFIG and KEYBUF (spec/42_key_schedule.md R177, R179). -/
theorem withSchedule_scheduleCurrent {w : Width} (hw : s.width = some w) (hb : s.keyLen ≤ 256) (hr : s.rounds ≤ 255) :
    (s.withSchedule w).scheduleCurrent :=
  ⟨w, hw, hb, hr, fun i hi => (withSchedule_subkeys_lookup w s i).trans (if_pos hi)⟩

/-- A successful KS stays inside S and L. -/
theorem State.Inv.withSchedule (h : s.Inv) {w : Width} (hw : s.width = some w) (hb : s.keyLen ≤ 256)
    (hr : s.rounds ≤ 255) : (s.withSchedule w).Inv :=
  { h with
    subkeys_wf := memWriteList_wf _ h.subkeys_wf (by
      simp only [List.length_map, keySchedule_s_length, subkeyCount]
      omega)
    keyWords_wf := memWriteList_wf _ h.keyWords_wf (by
      have := keyWordCount_le (width_bytes_pos w) hb
      simp only [List.length_map, keySchedule_l_length]
      omega)
    err_raised := .inl rfl
    busy_not_done := nofun
    ks_not_valid := nofun
    key_valid_current := fun _ => withSchedule_scheduleCurrent hw hb hr }

theorem State.Inv.exec (h : s.Inv) {i : Instr} (ht : exec i s = .next t) : t.Inv := by
  have hcode := exec_isRaisedCode ht
  rcases exec_cases i s with ⟨c, e⟩ | ⟨x, e⟩ | ⟨v, e⟩ | ⟨a, b, e⟩ | ⟨w, hw, hb, hr, -, e⟩ <;> cases ht.symm.trans e
  · exact h.complete hcode
  · exact (h.setRes x).complete hcode
  · exact (h.setDout v).complete hcode
  · exact (h.setOperands a b).complete hcode
  · exact h.withSchedule hw hb hr

theorem State.Inv.execWord (h : s.Inv) {v : Reg32} (ht : execWord v s = .next t) : t.Inv := by
  rcases execWord_cases v s with ⟨i, -, e⟩ | ⟨_, -, e⟩
  · exact h.exec (e.symm.trans ht)
  · cases ht.symm.trans e
    exact h.complete (by simp [IsRaisedCode, errorCode])

end

/-- Settles O12: reset enters a state of the invariant; otherwise the engine's edge (nothing, a count or a completion)
keeps it, and so does the bus's. -/
theorem stepKeepsInvariant : Obligations.StepKeepsInvariant := by
  intro s t h hstep
  rcases step_cases hstep with ⟨-, rfl⟩ | ⟨-, ⟨-, rfl⟩ | ⟨v, n, he, rfl⟩ | ⟨v, m, -, hm, rfl⟩⟩
  · exact resetCycle_inv _ _
  · exact h.beginCycle.busEdge false _
  · exact (h.beginCycle.runOn he).busEdge false _
  · exact (h.beginCycle.execWord hm).busEdge true _

end Sys2Proof.Machine
end

section
/-! PROOF. The clock cycle: the engine's edge and then the transaction, reset before both, and what a running command
computes from (spec/44_control.md R235, spec/60_exceptions.md R263, spec/70_reset_and_hazards.md R290). -/

namespace Sys2Proof.Machine

/-! One cycle. -/

/-- Settles O6: `step` is `clockCycle`, case by case of its reset, its engine and the cycles left; a completion always
answers. -/
theorem stepIsOneClockCycle : Obligations.StepIsOneClockCycle := by
  refine fun s => ⟨step_reset, step_idle, fun v n => step_counts, fun v hr he => ?_⟩
  obtain ⟨t, ht⟩ := execWord_next v s.beginCycle
  obtain ⟨hidle, hdone⟩ := execWord_completes ht
  exact ⟨t, ht, hidle, hdone, step_completes hr he ht⟩

theorem tableWord_encode (i : Instr) : tableWord 32 (encode i).toNat = encode i := by
  cases i <;> rfl

/-- Settles O5: at its last cycle the word's body is exec of the instruction it decodes to; the word that
`withFetchWord` places is at its last cycle, in a cycle without a transaction. -/
theorem stepRunsDecodedInstruction : Obligations.StepRunsDecodedInstruction := by
  refine ⟨fun s v i hr he hd => ?_, fun s i => ?_⟩
  · obtain ⟨t, ht⟩ := exec_next i s.beginCycle
    have hv : execWord v s.beginCycle = .next t := by rw [execWord, hd]; exact ht
    rw [step_completes hr he hv, ht]
  · obtain ⟨t, ht⟩ := exec_next i { s.acceptFor 0 (encode i) with response := none }
    rw [State.withFetchWord, tableWord_encode, ht]
    exact step_completes (s := s.withCommand (encode i)) rfl rfl ((execWord_encode i _).trans ht)

/-! Reset (spec/10_state.md R46). -/

theorem reset_status : State.reset.status = 0 := by decide

theorem reset_block_registers (k : Fin 8) : State.reset.din[k] = 0 ∧ State.reset.dout[k] = 0 := by
  revert k
  decide

/-- Settles O10: the fields of the state after are those of the reset edge, in which nothing is listed for KEYBUF, S
and L, and an access of the cycle only answers. -/
theorem resetEntersResetState : Obligations.ResetEntersResetState := by
  intro s hr
  obtain ⟨r, d, e⟩ := resetCycle_eq s.nextInput s.beginCycle
  refine ⟨_, step_reset hr, ?_⟩
  rw [e]
  exact ⟨rfl, rfl, reset_status, rfl, reset_block_registers, rfl, rfl, rfl, rfl, rfl, rfl, rfl,
    fun _ => rfl, fun _ => rfl, rfl, rfl⟩

/-! What no transaction changes (spec/70_reset_and_hazards.md R296, R297). -/

section
variable {s : State}

/-- No transaction changes the outputs of the commands, nor the number of resets. -/
theorem access_outputs (s : State) (c : Bool) (a : Access) :
    (s.access c a).dout = s.dout ∧ (s.access c a).res = s.res ∧ (s.access c a).subkeys = s.subkeys ∧
    (s.access c a).keyWords = s.keyWords ∧ (s.access c a).err = s.err ∧ (s.access c a).resets = s.resets := by
  refine access_keeps
    (fun t => t.dout = s.dout ∧ t.res = s.res ∧ t.subkeys = s.subkeys ∧ t.keyWords = s.keyWords ∧ t.err = s.err ∧
      t.resets = s.resets)
    c a s (fun _ _ _ h => h) (fun _ _ h => h) (fun r v h => ?_) ⟨rfl, rfl, rfl, rfl, rfl, rfl⟩
  rcases writeReg_cases c r v s with
    e | e | e | ⟨-, e⟩ | ⟨-, e | e | ⟨k, e⟩ | ⟨k, e⟩ | ⟨k, e⟩ | ⟨k, e⟩⟩ <;>
  · rw [e]
    exact h

/-- While the engine is busy a write of a register changes nothing the engine works on: it lands in STATUS or IRQ_EN,
is dropped or is ignored. -/
theorem access_busy_inputs (hb : s.busy = true) (c : Bool) (a : Access) :
    (s.access c a).engine = s.engine ∧ (s.access c a).config = s.config ∧ (s.access c a).din = s.din ∧
    (s.access c a).opa = s.opa ∧ (s.access c a).opb = s.opb ∧ (s.access c a).keybuf = s.keybuf ∧
    (s.access c a).keyValid = s.keyValid := by
  refine access_keeps
    (fun t => t.engine = s.engine ∧ t.config = s.config ∧ t.din = s.din ∧ t.opa = s.opa ∧ t.opb = s.opb ∧
      t.keybuf = s.keybuf ∧ t.keyValid = s.keyValid)
    c a s (fun _ _ _ h => h) (fun _ _ h => h) (fun r v h => ?_) ⟨rfl, rfl, rfl, rfl, rfl, rfl, rfl⟩
  rcases writeReg_cases c r v s with e | e | e | ⟨-, e⟩ | ⟨hi, -⟩
  · rw [e]; exact h
  · rw [e]; exact h
  · rw [e]; exact h
  · rw [e]; exact h
  · exact absurd hb (by simp [busy_idle hi])

end

/-- Settles O52: every write that lands goes to STATUS, IRQ_EN or an input register, and to an input register only while
the engine is idle. -/
theorem hostCannotDisturbEngine : Obligations.HostCannotDisturbEngine := by
  intro s c a
  obtain ⟨hdout, hres, hsub, hkw, herr, hresets⟩ := access_outputs s c a
  exact ⟨hdout, hres, hsub, hkw, herr, hresets, fun hb => access_busy_inputs hb c a⟩

/-! A running command (spec/44_control.md R235). -/

/-- `t` holds what a command computes from as `s` does (spec/20_memory.md R77). -/
structure SameCommandInputs (s t : State) : Prop where
  config : t.config = s.config
  din : t.din = s.din
  opa : t.opa = s.opa
  opb : t.opb = s.opb
  keybuf : t.keybuf = s.keybuf
  subkeys : t.subkeys = s.subkeys
  keyValid : t.keyValid = s.keyValid
  resets : t.resets = s.resets

theorem SameCommandInputs.trans {s t u : State} (h : SameCommandInputs s t) (h' : SameCommandInputs t u) :
    SameCommandInputs s u where
  config := h'.config.trans h.config
  din := h'.din.trans h.din
  opa := h'.opa.trans h.opa
  opb := h'.opb.trans h.opb
  keybuf := h'.keybuf.trans h.keybuf
  subkeys := h'.subkeys.trans h.subkeys
  keyValid := h'.keyValid.trans h.keyValid
  resets := h'.resets.trans h.resets

section
variable {s : State}

/-- The start of a cycle and the count of it leave what a command computes from. -/
theorem SameCommandInputs.of_runOn {t : State} {v : Reg32} {n : Nat}
    (h : SameCommandInputs (s.beginCycle.runOn v n) t) : SameCommandInputs s t :=
  { h with }

theorem busEdge_pins (s : State) (c : Bool) (inp : CycleInput) : (s.busEdge c inp).pins = s.pins := by
  unfold State.busEdge
  cases inp.access with
  | none => rfl
  | some a => exact access_pins s c a

theorem busEdge_busy (hb : s.busy = true) (c : Bool) (inp : CycleInput) :
    (s.busEdge c inp).engine = s.engine ∧ SameCommandInputs s (s.busEdge c inp) := by
  unfold State.busEdge
  cases inp.access with
  | none => exact ⟨rfl, rfl, rfl, rfl, rfl, rfl, rfl, rfl, rfl⟩
  | some a =>
    obtain ⟨-, -, hsub, -, -, hresets⟩ := access_outputs s c a
    obtain ⟨heng, hconf, hdin, hopa, hopb, hkey, hvalid⟩ := access_busy_inputs hb c a
    exact ⟨heng, hconf, hdin, hopa, hopb, hkey, hsub, hvalid, hresets⟩

/-- A command with cycles left runs one of them in a step without reset, whatever the host drives. -/
theorem step_counts_down {v : Reg32} {n : Nat} (hr : s.nextInput.rst = false) (he : s.engine = .busy v (n + 1)) :
    ∃ t, step s = .next t ∧ t.engine = .busy v n ∧ t.pins = s.pins.tail ∧ SameCommandInputs s t := by
  obtain ⟨heng, hsame⟩ := busEdge_busy (s := s.beginCycle.runOn v n) rfl false s.nextInput
  exact ⟨_, step_counts hr he, heng, busEdge_pins _ _ _, hsame.of_runOn⟩

theorem nextInput_rst_of_take {n : Nat} (h : ∀ inp ∈ s.pins.take (n + 1), inp.rst = false) :
    s.nextInput.rst = false := by
  cases hp : s.pins with
  | nil => rw [nextInput_nil hp]; rfl
  | cons inp rest => rw [nextInput_cons hp]; exact h inp (by simp [hp])

/-- A running command reaches its last cycle with what it computes from unchanged. -/
theorem running_reaches_last_cycle {v : Reg32} {n : Nat} (he : s.engine = .busy v n)
    (hp : ∀ inp ∈ s.pins.take (n + 1), inp.rst = false) :
    ∃ t, stepsTo n s t ∧ t.engine = .busy v 0 ∧ t.nextInput.rst = false ∧ SameCommandInputs s t := by
  induction n generalizing s with
  | zero => exact ⟨s, rfl, he, nextInput_rst_of_take hp, rfl, rfl, rfl, rfl, rfl, rfl, rfl, rfl⟩
  | succ n ih =>
    obtain ⟨u, hu, heu, hpu, hsame⟩ := step_counts_down (nextInput_rst_of_take hp) he
    have hpu' : ∀ inp ∈ u.pins.take (n + 1), inp.rst = false := by
      rw [hpu, ← List.drop_one, List.take_drop, Nat.add_comm 1]
      exact fun inp hin => hp inp (List.mem_of_mem_drop hin)
    obtain ⟨t, ht, het, hrt, hsame'⟩ := ih heu hpu'
    exact ⟨t, ⟨u, hu, ht⟩, het, hrt, hsame.trans hsame'⟩

end

/-- Settles O8: by induction over the cycles left the command reaches its last one, where it completes. -/
theorem runningCommandCompletes : Obligations.RunningCommandCompletes := by
  intro n s v he hp
  obtain ⟨t, ht, het, hrt, h⟩ := running_reaches_last_cycle he hp
  obtain ⟨m, hm⟩ := execWord_next v t.beginCycle
  obtain ⟨hidle, hdone⟩ := execWord_completes hm
  exact ⟨t, m, ht, het, h.config, h.din, h.opa, h.opb, h.keybuf, h.subkeys, h.keyValid, h.resets, hm, hidle, hdone,
    step_completes hrt het hm⟩

end Sys2Proof.Machine
end

section
/-! PROOF. What each command writes, and what one that fails does not (spec/20_memory.md R80, spec/60_exceptions.md
R264). -/

namespace Sys2Proof.Machine

/-! Each template as one write and the completion; where the command fails, the write is of the value held. -/

section
variable (s : State)

theorem aluCommand_writes_res (op : {w : Nat} → BitVec w → BitVec w → BitVec w) :
    ∃ x c, aluCommand op s = (s.setRes x).complete c := by
  rcases aluCommand_cases op s with ⟨-, e⟩ | ⟨w, -, e⟩
  · exact ⟨s.res, _, e⟩
  · exact ⟨_, _, e⟩

theorem blockCommand_writes_dout
    (f : {w : Nat} → (Nat → BitVec w) → Nat → BitVec w × BitVec w → BitVec w × BitVec w) :
    ∃ v c, blockCommand f s = (s.setDout v).complete c := by
  rcases blockCommand_cases f s with ⟨-, e⟩ | ⟨-, -, e⟩ | ⟨w, -, -, e⟩
  · exact ⟨s.dout, _, e⟩
  · exact ⟨s.dout, _, e⟩
  · exact ⟨_, _, e⟩

theorem execDeser_writes_operands : ∃ a b c, execDeser s = .next ((s.setOperands a b).complete c) := by
  rcases execDeser_cases s with ⟨-, e⟩ | ⟨w, -, e⟩
  · exact ⟨s.opa, s.opb, _, e⟩
  · exact ⟨_, _, _, e⟩

theorem execSer_writes_dout : ∃ v c, execSer s = .next ((s.setDout v).complete c) := by
  rcases execSer_cases s with ⟨-, e⟩ | ⟨w, -, e⟩
  · exact ⟨s.dout, _, e⟩
  · exact ⟨_, _, e⟩

theorem execKs_writes_schedule :
    ∃ (ss ls : List (Nat × Reg128)) (k : Bool) (c : ErrorKind),
      execKs s = .next (({ s with subkeys := ss, keyWords := ls, keyValid := k } : State).complete c) := by
  rcases execKs_cases s with ⟨-, e⟩ | ⟨-, -, e⟩ | ⟨-, -, -, e⟩ | ⟨w, -, -, -, e⟩
  · exact ⟨s.subkeys, s.keyWords, s.keyValid, _, e⟩
  · exact ⟨s.subkeys, s.keyWords, s.keyValid, _, e⟩
  · exact ⟨s.subkeys, s.keyWords, s.keyValid, _, e⟩
  · exact ⟨_, _, _, _, e⟩

end

/-- Settles O33: each command is a completion after the one write of its template, which is of an output of its own. -/
theorem commandsWriteOnlyTheirOutputs : Obligations.CommandsWriteOnlyTheirOutputs := by
  intro i s
  cases i with
  | nop => exact ⟨_, execNop_eq s, by simp⟩
  | ks =>
    obtain ⟨ss, ls, k, c, e⟩ := execKs_writes_schedule s
    exact ⟨_, e, by simp⟩
  | enc =>
    obtain ⟨v, c, e⟩ := blockCommand_writes_dout s fwd
    exact ⟨_, congrArg Host.Outcome.next e, by simp⟩
  | dec =>
    obtain ⟨v, c, e⟩ := blockCommand_writes_dout s inv
    exact ⟨_, congrArg Host.Outcome.next e, by simp⟩
  | add =>
    obtain ⟨x, c, e⟩ := aluCommand_writes_res s addW
    exact ⟨_, congrArg Host.Outcome.next e, by simp⟩
  | sub =>
    obtain ⟨x, c, e⟩ := aluCommand_writes_res s subW
    exact ⟨_, congrArg Host.Outcome.next e, by simp⟩
  | xor =>
    obtain ⟨x, c, e⟩ := aluCommand_writes_res s xorW
    exact ⟨_, congrArg Host.Outcome.next e, by simp⟩
  | rotl =>
    obtain ⟨x, c, e⟩ := aluCommand_writes_res s fun a b => rotlW a b.toNat
    exact ⟨_, congrArg Host.Outcome.next e, by simp⟩
  | rotr =>
    obtain ⟨x, c, e⟩ := aluCommand_writes_res s fun a b => rotrW a b.toNat
    exact ⟨_, congrArg Host.Outcome.next e, by simp⟩
  | deser =>
    obtain ⟨a, b, c, e⟩ := execDeser_writes_operands s
    exact ⟨_, e, by simp⟩
  | ser =>
    obtain ⟨v, c, e⟩ := execSer_writes_dout s
    exact ⟨_, e, by simp⟩

/-! A command that ends with an error. -/

/-- A command that writes an output completes with code 0. -/
theorem exec_failing {i : Instr} {s t : State} (ht : exec i s = .next t) (herr : t.err ≠ 0x0) :
    ∃ c, t = s.complete c := by
  rcases exec_cases i s with ⟨c, e⟩ | ⟨_, e⟩ | ⟨_, e⟩ | ⟨_, _, e⟩ | ⟨_, _, _, _, _, e⟩ <;> cases ht.symm.trans e
  · exact ⟨c, rfl⟩
  all_goals exact absurd rfl herr

theorem execWord_failing {v : Reg32} {s t : State} (ht : execWord v s = .next t) (herr : t.err ≠ 0x0) :
    ∃ c, t = s.complete c := by
  rcases execWord_cases v s with ⟨i, -, e⟩ | ⟨_, -, e⟩
  · exact exec_failing (e.symm.trans ht) herr
  · cases ht.symm.trans e
    exact ⟨_, rfl⟩

/-- Settles O35: with a code other than 0 the body is the completion alone. -/
theorem failingCommandWritesOnlyStatus : Obligations.FailingCommandWritesOnlyStatus := by
  intro v s t ht herr
  obtain ⟨c, rfl⟩ := execWord_failing ht herr
  rfl

/-! The flags and registers no command word writes. -/

theorem execWord_wbusy_irqEn {v : Reg32} {s t : State} (ht : execWord v s = .next t) :
    t.wbusy = s.wbusy ∧ t.irqEn = s.irqEn := by
  rcases execWord_cases v s with ⟨i, -, e⟩ | ⟨_, -, e⟩
  · obtain ⟨t', ht', -, -, -, hirq, hwbusy, -⟩ := commandsWriteOnlyTheirOutputs i s
    cases ht'.symm.trans (e.symm.trans ht)
    exact ⟨hwbusy, hirq⟩
  · cases ht.symm.trans e
    exact ⟨rfl, rfl⟩

/-- Only a KS with a legal CONFIG raises KEY_VALID, and it completes with code 0. -/
theorem exec_keyValid_rises {i : Instr} {s t : State} (ht : exec i s = .next t) (h0 : s.keyValid = false)
    (h1 : t.keyValid = true) : i = .ks ∧ s.wsel ≤ 3 ∧ s.keyLen ≤ 256 ∧ s.rounds ≤ 255 ∧ t.err = 0x0 := by
  rcases exec_cases i s with ⟨_, e⟩ | ⟨_, e⟩ | ⟨_, e⟩ | ⟨_, _, e⟩ | ⟨w, hw, hb, hr, hks, e⟩ <;> cases ht.symm.trans e
  case inr.inr.inr.inr.refl => exact ⟨hks, (width_bits hw).1, hb, hr, rfl⟩
  all_goals exact absurd (h0.symm.trans h1) Bool.false_ne_true

theorem execWord_keyValid_rises {v : Reg32} {s t : State} (ht : execWord v s = .next t) (h0 : s.keyValid = false)
    (h1 : t.keyValid = true) :
    v = 0x00000001#32 ∧ s.wsel ≤ 3 ∧ s.keyLen ≤ 256 ∧ s.rounds ≤ 255 ∧ t.err = 0x0 := by
  rcases execWord_cases v s with ⟨i, hd, e⟩ | ⟨_, -, e⟩
  · obtain ⟨rfl, hlegal⟩ := exec_keyValid_rises (e.symm.trans ht) h0 h1
    exact ⟨(decode_eq_ok_iff _ _).mp hd, hlegal⟩
  · cases ht.symm.trans e
    exact absurd (h0.symm.trans h1) Bool.false_ne_true

end Sys2Proof.Machine
end

section
/-! PROOF. Which events change a flag, and which host access starts a command (spec/10_state.md R27 to R34,
spec/60_exceptions.md R265, R266). -/

namespace Sys2Proof.Machine

/-! A field that only a write of a register can change. -/

section
variable {α : Type}

/-- A field that the response and the draws do not enter changes in a transaction only as the written register says. -/
theorem busEdge_field (f : State → α) (hresp : ∀ t p d, f (State.respond p d t) = f t)
    (hfree : ∀ t p, f (State.respondFree p t) = f t) (c : Bool) (inp : CycleInput) (s : State) :
    f (s.busEdge c inp) = f s ∨
    ∃ a r, inp.access = some a ∧ a.write = true ∧ accessTarget a = some r ∧
      f (s.busEdge c inp) = f (s.writeReg c r a.wdata) := by
  cases ha : inp.access with
  | none => exact .inl (congrArg f (busEdge_quiet c inp s ha))
  | some a =>
    rw [busEdge_access c s ha]
    rcases access_cases c a s with ⟨r, hw, ht, e⟩ | ⟨p, d, e⟩ | ⟨p, e⟩
    · exact .inr ⟨a, r, rfl, hw, ht, (congrArg f e).trans (hresp _ _ _)⟩
    · exact .inl ((congrArg f e).trans (hresp _ _ _))
    · exact .inl ((congrArg f e).trans (hfree _ _))

/-- A field that neither landing nor being dropped changes is unchanged by the write. -/
theorem whenIdle_field (f : State → α) {s : State} {g : State → State} (hg : f (g s) = f s)
    (hd : f s.dropWrite = f s) : f (s.whenIdle g) = f s := by
  rcases whenIdle_cases s g with ⟨-, e⟩ | ⟨-, e⟩
  · rw [e, hg]
  · rw [e, hd]

end

/-! The registers a field depends on. -/

theorem reg_cases (r : Reg) : r.isInput ∨ r.isReadOnly ∨ r = .status ∨ r = .irqEn := by
  cases r <;> simp [Reg.isInput, Reg.isReadOnly]

section
variable {s : State} {c : Bool} {r : Reg} {v : Reg32}

theorem writeReg_engine (h : r ≠ .cmd) : (s.writeReg c r v).engine = s.engine := by
  rcases reg_cases r with hi | hro | rfl | rfl
  · rcases hi with rfl | rfl | ⟨k, rfl⟩ | ⟨k, rfl⟩ | ⟨k, rfl⟩ | ⟨k, rfl⟩
    case inr.inl => exact absurd rfl h
    all_goals exact whenIdle_field State.engine rfl rfl
  · rw [writeReg_readOnly hro]
  · rfl
  · rfl

theorem writeReg_irqEn (h : r ≠ .irqEn) : (s.writeReg c r v).irqEn = s.irqEn := by
  rcases reg_cases r with hi | hro | rfl | rfl
  · rcases hi with rfl | rfl | ⟨k, rfl⟩ | ⟨k, rfl⟩ | ⟨k, rfl⟩ | ⟨k, rfl⟩ <;>
      exact whenIdle_field State.irqEn rfl rfl
  · rw [writeReg_readOnly hro]
  · rfl
  · exact absurd rfl h

/-- A write of an input register only sets WBUSY, and only while the engine is busy. -/
theorem writeReg_input_wbusy (h : r.isInput) : (s.writeReg c r v).wbusy = (s.wbusy || s.busy) := by
  cases he : s.engine with
  | idle =>
    rw [busy_idle he, Bool.or_false]
    rcases h with rfl | rfl | ⟨k, rfl⟩ | ⟨k, rfl⟩ | ⟨k, rfl⟩ | ⟨k, rfl⟩ <;>
      exact (congrArg State.wbusy (whenIdle_idle he _)).trans rfl
  | busy v' n => rw [writeReg_input_busy h (busy_busy he), busy_busy he, Bool.or_true]; rfl

/-- No write of a register raises DONE. -/
theorem writeReg_done_of_done (h : (s.writeReg c r v).done = true) : s.done = true := by
  rcases writeReg_cases c r v s with
    e | e | e | ⟨-, e⟩ | ⟨-, e | e | ⟨k, e⟩ | ⟨k, e⟩ | ⟨k, e⟩ | ⟨k, e⟩⟩ <;> rw [e] at h
  case inr.inl => exact (Bool.and_eq_true_iff.mp h).1
  case inr.inr.inr.inr.inr.inl => exact absurd h Bool.false_ne_true
  all_goals exact h

/-- No write of a register raises KEY_VALID. -/
theorem writeReg_keyValid_of_keyValid (h : (s.writeReg c r v).keyValid = true) : s.keyValid = true := by
  rcases writeReg_cases c r v s with
    e | e | e | ⟨-, e⟩ | ⟨-, e | e | ⟨k, e⟩ | ⟨k, e⟩ | ⟨k, e⟩ | ⟨k, e⟩⟩ <;> rw [e] at h
  case inr.inr.inr.inr.inl => exact absurd h Bool.false_ne_true
  case inr.inr.inr.inr.inr.inl => exact (Bool.and_eq_true_iff.mp h).1
  case inr.inr.inr.inr.inr.inr.inr.inr.inr => exact absurd h Bool.false_ne_true
  all_goals exact h

end

/-! What the bus's edge can do to each field. -/

section
variable {s : State} {c : Bool} {inp : CycleInput}

theorem busEdge_done_of_done (h : (s.busEdge c inp).done = true) : s.done = true := by
  rcases busEdge_field State.done (fun _ _ _ => rfl) (fun _ _ => rfl) c inp s with e | ⟨a, r, -, -, -, e⟩
  · exact e.symm.trans h
  · exact writeReg_done_of_done (e.symm.trans h)

theorem busEdge_keyValid_of_keyValid (h : (s.busEdge c inp).keyValid = true) : s.keyValid = true := by
  rcases busEdge_field State.keyValid (fun _ _ _ => rfl) (fun _ _ => rfl) c inp s with e | ⟨a, r, -, -, -, e⟩
  · exact e.symm.trans h
  · exact writeReg_keyValid_of_keyValid (e.symm.trans h)

theorem busEdge_err : (s.busEdge c inp).err = s.err := by
  cases ha : inp.access with
  | none => rw [busEdge_quiet c inp s ha]
  | some a =>
    obtain ⟨-, -, -, -, herr, -⟩ := access_outputs s c a
    rw [busEdge_access c s ha, herr]

/-- The idle engine is started only by a write of CMD, with the word written. -/
theorem busEdge_starts {v : Reg32} {n : Nat} (hi : s.engine = .idle) (h : (s.busEdge c inp).engine = .busy v n) :
    ∃ a, inp.access = some a ∧ a.write = true ∧ accessTarget a = some .cmd ∧ a.wdata = v := by
  rcases busEdge_field State.engine (fun _ _ _ => rfl) (fun _ _ => rfl) c inp s with e | ⟨a, r, ha, hw, ht, e⟩
  · cases hi.symm.trans (e.symm.trans h)
  · by_cases hr : r = .cmd
    · subst hr
      have haccept : s.writeReg c .cmd a.wdata = s.accept a.wdata := whenIdle_idle hi _
      rw [haccept, State.accept_engine] at e
      cases e.symm.trans h
      exact ⟨a, ha, hw, ht, rfl⟩
    · cases hi.symm.trans ((writeReg_engine hr).symm.trans (e.symm.trans h))

/-- WBUSY rises only by a write of an input register of the busy engine. -/
theorem busEdge_wbusy_rises (h0 : s.wbusy = false) (h1 : (s.busEdge c inp).wbusy = true) :
    s.busy = true ∧ ∃ a r, inp.access = some a ∧ a.write = true ∧ accessTarget a = some r ∧ r.isInput := by
  rcases busEdge_field State.wbusy (fun _ _ _ => rfl) (fun _ _ => rfl) c inp s with e | ⟨a, r, ha, hw, ht, e⟩
  · exact absurd (h0.symm.trans (e.symm.trans h1)) Bool.false_ne_true
  · have hwr := e.symm.trans h1
    rcases reg_cases r with hin | hro | rfl | rfl
    · rw [writeReg_input_wbusy hin, h0, Bool.false_or] at hwr
      exact ⟨hwr, a, r, ha, hw, ht, hin⟩
    · rw [writeReg_readOnly hro] at hwr
      exact absurd (h0.symm.trans hwr) Bool.false_ne_true
    · exact absurd (h0.symm.trans (Bool.and_eq_true_iff.mp hwr).1) Bool.false_ne_true
    · exact absurd (h0.symm.trans hwr) Bool.false_ne_true

/-- WBUSY falls only by a write of STATUS with bit 3 set. -/
theorem busEdge_wbusy_falls (h1 : s.wbusy = true) (h0 : (s.busEdge c inp).wbusy = false) :
    ∃ a, inp.access = some a ∧ a.write = true ∧ accessTarget a = some .status ∧ a.wdata.getLsbD 3 = true := by
  rcases busEdge_field State.wbusy (fun _ _ _ => rfl) (fun _ _ => rfl) c inp s with e | ⟨a, r, ha, hw, ht, e⟩
  · exact absurd (h0.symm.trans (e.trans h1)) Bool.false_ne_true
  · have hwr := e.symm.trans h0
    rcases reg_cases r with hin | hro | rfl | rfl
    · rw [writeReg_input_wbusy hin, h1, Bool.true_or] at hwr
      exact absurd hwr.symm Bool.false_ne_true
    · rw [writeReg_readOnly hro] at hwr
      exact absurd (hwr.symm.trans h1) Bool.false_ne_true
    · exact ⟨a, ha, hw, ht, by simpa [State.writeReg, State.writeStatus, h1] using hwr⟩
    · exact absurd (hwr.symm.trans h1) Bool.false_ne_true

/-- DONE_IE rises only by a write of IRQ_EN with bit 0 set. -/
theorem busEdge_doneIe_rises (h0 : s.doneIe = false) (h1 : (s.busEdge c inp).doneIe = true) :
    ∃ a, inp.access = some a ∧ a.write = true ∧ accessTarget a = some .irqEn ∧ a.wdata.getLsbD 0 = true := by
  rcases busEdge_field State.doneIe (fun _ _ _ => rfl) (fun _ _ => rfl) c inp s with e | ⟨a, r, ha, hw, ht, e⟩
  · exact absurd (h0.symm.trans (e.symm.trans h1)) Bool.false_ne_true
  · have hwr := e.symm.trans h1
    by_cases hr : r = .irqEn
    · subst hr
      exact ⟨a, ha, hw, ht, by simpa [State.writeReg, State.doneIe] using hwr⟩
    · rw [State.doneIe, writeReg_irqEn hr] at hwr
      exact absurd (h0.symm.trans hwr) Bool.false_ne_true

end

/-! The rules of the whole machine. -/

section
variable {s : State}

theorem resetCycle_flags (inp : CycleInput) (s : State) :
    (s.resetCycle inp).keyValid = false ∧ (s.resetCycle inp).wbusy = false ∧ (s.resetCycle inp).irq = false := by
  obtain ⟨r, d, e⟩ := resetCycle_eq inp s
  rw [e]
  exact ⟨rfl, rfl, rfl⟩

theorem nextInput_eq {a : Access} (hr : s.nextInput.rst = false) (ha : s.nextInput.access = some a) :
    s.nextInput = { rst := false, access := some a } := by
  rw [← hr, ← ha]

end

/-- Settles O53: only a completion raises KEY_VALID, and only that of a KS with a legal CONFIG; the transaction of the
cycle leaves ERR. -/
theorem keyValidRisesOnlyByKs : Obligations.KeyValidRisesOnlyByKs := by
  intro s t hstep h0 h1
  rcases step_cases hstep with ⟨-, rfl⟩ | ⟨hr, ⟨-, rfl⟩ | ⟨v, n, -, rfl⟩ | ⟨v, m, he, hm, rfl⟩⟩
  · obtain ⟨hreset, -, -⟩ := resetCycle_flags s.nextInput s.beginCycle
    exact absurd (hreset.symm.trans h1) Bool.false_ne_true
  · exact absurd (h0.symm.trans (busEdge_keyValid_of_keyValid (s := s.beginCycle) h1)) Bool.false_ne_true
  · exact absurd (h0.symm.trans (busEdge_keyValid_of_keyValid (s := s.beginCycle.runOn v n) h1)) Bool.false_ne_true
  · obtain ⟨rfl, hw, hb, hrounds, herr⟩ := execWord_keyValid_rises hm h0 (busEdge_keyValid_of_keyValid h1)
    exact ⟨hr, he, hw, hb, hrounds, busEdge_err.trans herr⟩

/-- Settles O54: neither a transaction nor a count of cycles writes ERR. -/
theorem errIsWrittenOnlyAtCompletion : Obligations.ErrIsWrittenOnlyAtCompletion := by
  intro s t hstep hne
  rcases step_cases hstep with ⟨hr, -⟩ | ⟨-, ⟨-, rfl⟩ | ⟨v, n, -, rfl⟩ | ⟨v, m, he, -, -⟩⟩
  · exact .inl hr
  · exact absurd busEdge_err hne
  · exact absurd busEdge_err hne
  · exact .inr ⟨v, he⟩

/-- Settles O55: a command starts in the transaction of the idle engine's cycle, and no transaction raises DONE. -/
theorem commandsStartByCmdWriteAndEndInDone : Obligations.CommandsStartByCmdWriteAndEndInDone := by
  intro s t hstep
  rcases step_cases hstep with ⟨-, rfl⟩ | ⟨hr, ⟨hi, rfl⟩ | ⟨v, n, he, rfl⟩ | ⟨v, m, he, -, -⟩⟩
  · obtain ⟨hengine, hdone, -⟩ := resetCycle_no_completion s.nextInput s.beginCycle
    exact ⟨fun v n _ h => (nomatch hengine.symm.trans h), fun _ h => absurd (hdone.symm.trans h) Bool.false_ne_true⟩
  · refine ⟨fun v n _ h => ?_, fun h0 h1 => ?_⟩
    · obtain ⟨a, ha, hw, ht, hv⟩ := busEdge_starts (s := s.beginCycle) hi h
      exact ⟨a, nextInput_eq hr ha, hw, ht, hv⟩
    · exact absurd (h0.symm.trans (busEdge_done_of_done (s := s.beginCycle) h1)) Bool.false_ne_true
  · refine ⟨fun v' n' h => (nomatch h.symm.trans he), fun h0 h1 => ?_⟩
    exact absurd (h0.symm.trans (busEdge_done_of_done (s := s.beginCycle.runOn v n) h1)) Bool.false_ne_true
  · exact ⟨fun v' n' h => (nomatch h.symm.trans he), fun _ _ => ⟨hr, v, he⟩⟩

/-- Settles O56: outside reset WBUSY changes only in the transaction, which finds the engine busy only if a command goes
on running. -/
theorem wbusyRecordsDroppedWrites : Obligations.WbusyRecordsDroppedWrites := by
  intro s t hstep
  rcases step_cases hstep with ⟨hr, rfl⟩ | ⟨hr, ⟨hi, rfl⟩ | ⟨v, n, he, rfl⟩ | ⟨v, m, -, hm, rfl⟩⟩
  · obtain ⟨-, hreset, -⟩ := resetCycle_flags s.nextInput s.beginCycle
    exact ⟨fun _ h => absurd (hreset.symm.trans h) Bool.false_ne_true, fun _ _ => .inl hr⟩
  · refine ⟨fun h0 h1 => ?_, fun h1 h0 => .inr (busEdge_wbusy_falls (s := s.beginCycle) h1 h0)⟩
    obtain ⟨hb, -⟩ := busEdge_wbusy_rises (s := s.beginCycle) h0 h1
    exact absurd ((busy_idle hi).symm.trans hb) Bool.false_ne_true
  · refine ⟨fun h0 h1 => ?_, fun h1 h0 => .inr (busEdge_wbusy_falls (s := s.beginCycle.runOn v n) h1 h0)⟩
    obtain ⟨-, a, r, ha, hw, ht, hin⟩ := busEdge_wbusy_rises (s := s.beginCycle.runOn v n) h0 h1
    exact ⟨v, n, a, r, he, nextInput_eq hr ha, hw, ht, hin⟩
  · obtain ⟨hidle, -⟩ := execWord_completes hm
    obtain ⟨hwbusy, -⟩ := execWord_wbusy_irqEn hm
    refine ⟨fun h0 h1 => ?_, fun h1 h0 => .inr (busEdge_wbusy_falls (hwbusy.trans h1) h0)⟩
    obtain ⟨hb, -⟩ := busEdge_wbusy_rises (hwbusy.trans h0) h1
    exact absurd ((busy_idle hidle).symm.trans hb) Bool.false_ne_true

/-- In a cycle that completes nothing irq rises only by the enable, DONE being 1. -/
theorem busEdge_irq_rises {s : State} {c : Bool} {inp : CycleInput} (h0 : s.irq = false)
    (h1 : (s.busEdge c inp).irq = true) :
    s.done = true ∧
    ∃ a, inp.access = some a ∧ a.write = true ∧ accessTarget a = some .irqEn ∧ a.wdata.getLsbD 0 = true := by
  obtain ⟨hdone', hie'⟩ := Bool.and_eq_true_iff.mp h1
  have hdone := busEdge_done_of_done hdone'
  have hie : s.doneIe = false := by simpa [State.irq, hdone] using h0
  exact ⟨hdone, busEdge_doneIe_rises hie hie'⟩

/-- Settles O57: with no completion in the cycle DONE was 1 already, so the enable must have risen. -/
theorem irqRisesOnlyByCompletionOrEnable : Obligations.IrqRisesOnlyByCompletionOrEnable := by
  refine fun s t => ⟨by rw [status_getLsbD_one]; rfl, fun hstep h0 h1 => ?_⟩
  rcases step_cases hstep with ⟨-, rfl⟩ | ⟨hr, ⟨-, rfl⟩ | ⟨v, n, -, rfl⟩ | ⟨v, m, he, -, -⟩⟩
  · obtain ⟨-, -, hreset⟩ := resetCycle_flags s.nextInput s.beginCycle
    exact absurd (hreset.symm.trans h1) Bool.false_ne_true
  · exact ⟨hr, .inr (busEdge_irq_rises (s := s.beginCycle) h0 h1)⟩
  · exact ⟨hr, .inr (busEdge_irq_rises (s := s.beginCycle.runOn v n) h0 h1)⟩
  · exact ⟨hr, .inl ⟨v, he⟩⟩

/-- Settles O58: IRQ_EN is written and read in every state; a completion sets DONE and leaves IRQ_EN; a STATUS write of
bit 1 clears DONE. -/
theorem interruptIsEnabledRaisedAndAcknowledged : Obligations.InterruptIsEnabledRaisedAndAcknowledged := by
  refine ⟨fun s c v => ⟨access_hostWrite s c .irqEn v, ?_⟩, fun s v he hin hie => ?_, fun s x rest hi hp hx => ?_⟩
  · rw [access_hostRead_not_open rfl, access_hostWrite]
    rfl
  · obtain ⟨m, hm⟩ := execWord_next v s.beginCycle
    obtain ⟨-, hdone⟩ := execWord_completes hm
    obtain ⟨-, hirq⟩ := execWord_wbusy_irqEn hm
    refine ⟨_, step_completes (by rw [hin]; rfl) he hm, ?_⟩
    rw [hin, busEdge_quiet true _ m rfl, State.irq, State.doneIe, hdone, hirq]
    exact hie
  · have hin := nextInput_cons hp
    refine ⟨_, step_idle (by rw [hin]) hi, ?_⟩
    rw [hin, busEdge_access false _ rfl, access_statusWrite]
    simp [State.irq, State.writeStatus, hx]

end Sys2Proof.Machine
end

section
/-! PROOF. The word primitives, the words of a block and the two transforms undo each other (spec/40_word_alu.md R124,
spec/41_serializer.md R152, R158, spec/43_round_transform.md R202). -/

namespace Sys2Proof.Machine

/-! The primitives (spec/40_word_alu.md R124). -/

section
variable {w : Nat} (x y : BitVec w) (n : Nat)

/-- Turning a bit number k below w by m one way and back gives k again. -/
theorem add_mod_sub_mod {k m : Nat} (hk : k < w) (hm : m < w) : ((k + m) % w + w - m) % w = k := by
  rcases Nat.lt_or_ge (k + m) w with h | h
  · rw [Nat.mod_eq_of_lt h, show k + m + w - m = k + w by omega, Nat.add_mod_right, Nat.mod_eq_of_lt hk]
  · rw [Nat.mod_eq_sub_mod h, Nat.mod_eq_of_lt (by omega : k + m - w < w), show k + m - w + w - m = k by omega,
      Nat.mod_eq_of_lt hk]

theorem sub_mod_add_mod {k m : Nat} (hk : k < w) (hm : m < w) : ((k + w - m) % w + m) % w = k := by
  rw [Nat.mod_add_mod, show k + w - m + m = k + w by omega, Nat.add_mod_right, Nat.mod_eq_of_lt hk]

@[simp] theorem rotrW_rotlW : rotrW (rotlW x n) n = x := by
  apply BitVec.eq_of_getLsbD_eq
  intro k hk
  have hw : 0 < w := by omega
  have hm := Nat.mod_lt n hw
  simp only [rotrW_getLsbD, rotlW_getLsbD, hk, Nat.mod_lt _ hw, add_mod_sub_mod hk hm, decide_true, Bool.true_and]

@[simp] theorem rotlW_rotrW : rotlW (rotrW x n) n = x := by
  apply BitVec.eq_of_getLsbD_eq
  intro k hk
  have hw : 0 < w := by omega
  have hm := Nat.mod_lt n hw
  simp only [rotrW_getLsbD, rotlW_getLsbD, hk, Nat.mod_lt _ hw, sub_mod_add_mod hk hm, decide_true, Bool.true_and]

/-- A left rotation is the right rotation by what is missing to a whole turn. -/
theorem rotlW_eq_rotrW : rotlW x n = rotrW x ((w - n % w) % w) := by
  apply BitVec.eq_of_getLsbD_eq
  intro k hk
  have hm := Nat.mod_lt n (by omega : 0 < w)
  rw [rotlW_getLsbD, rotrW_getLsbD, Nat.mod_mod, Nat.add_mod_mod, Nat.add_sub_assoc hm.le]

@[simp] theorem rotlW_zero : rotlW x 0 = x := if_pos (Nat.zero_mod w)

@[simp] theorem rotlW_width : rotlW x w = x := if_pos (Nat.mod_self w)

theorem rotlW_width_succ : rotlW x (w + 1) = rotlW x 1 := by
  rw [rotlW, rotlW, Nat.add_mod_left]

@[simp] theorem subW_addW : subW (addW x y) y = x := by rw [subW_eq, addW_eq, BitVec.add_sub_cancel]

@[simp] theorem addW_subW : addW (subW x y) y = x := by rw [subW_eq, addW_eq, BitVec.sub_add_cancel]

@[simp] theorem xorW_xorW : xorW (xorW x y) y = x := by
  rw [xorW_eq, xorW_eq, BitVec.xor_assoc, BitVec.xor_self, BitVec.xor_zero]

end

/-- Settles O37: bit k of a rotation is bit k minus or plus n modulo w; the sum and the difference are those of bit
vectors. -/
theorem primitivesAreInverse : Obligations.PrimitivesAreInverse := fun _ x y n =>
  ⟨rotrW_rotlW x n, rotlW_rotrW x n, rotlW_eq_rotrW x n, rotlW_zero x, rotlW_width x, rotlW_width_succ x,
    subW_addW x y, addW_subW x y, xorW_xorW x y⟩

/-- Settles O38: a word of width w has w = 8u bits. -/
theorem wordAndBytesAreInverse : Obligations.WordAndBytesAreInverse := fun w =>
  ⟨leWord_wordBytes (width_bits_eq w), wordBytes_leWord (width_bits_eq w)⟩

/-! The transforms (spec/43_round_transform.md R202). -/

section
variable {w : Nat} (sk : Nat → BitVec w) (i r : Nat) (p : BitVec w × BitVec w)

/-- An inverse round brings back first B, from the A that the forward round left, and then A. -/
theorem invRound_fwdRound : invRound sk i (fwdRound sk i p) = p := by
  simp only [invRound, fwdRound, subW_addW, rotrW_rotlW, xorW_xorW]

theorem fwdRound_invRound : fwdRound sk i (invRound sk i p) = p := by
  simp only [fwdRound, invRound, xorW_xorW, rotlW_rotrW, addW_subW]

theorem invRounds_fwdRounds : invRounds sk r (fwdRounds sk r p) = p := by
  induction r with
  | zero => rfl
  | succ r ih => rw [fwdRounds, invRounds, invRound_fwdRound, ih]

theorem fwdRounds_invRounds : fwdRounds sk r (invRounds sk r p) = p := by
  induction r generalizing p with
  | zero => rfl
  | succ r ih => rw [fwdRounds, invRounds, ih, fwdRound_invRound]

theorem inv_fwd : inv sk r (fwd sk r p) = p := by
  simp only [inv, fwd, invRounds_fwdRounds, subW_addW]

theorem fwd_inv : fwd sk r (inv sk r p) = p := by
  simp only [inv, fwd, addW_subW, Prod.mk.eta, fwdRounds_invRounds]

end

/-- Settles O24: by induction over the rounds, the whitening of S[0] and S[1] outside them. -/
theorem transformsAreInverse : Obligations.TransformsAreInverse := fun _ sk r p =>
  ⟨inv_fwd sk r p, fwd_inv sk r p⟩

/-! The block on its way from DIN to DOUT. -/

section
variable {s : State} {w : Width}

/-- Serializing the words of the block gives the block back, with 0 above it (spec/41_serializer.md R158). -/
theorem serBlock_deserBlock_byte (s : State) (w : Width) {n : Nat} (hn : n < 32) :
    blockByte (serBlock w (s.deserBlock w).1 (s.deserBlock w).2) n = if n < 2 * w.bytes then s.dinByte n else 0 := by
  rw [serBlock_byte w _ _ n hn]
  split
  next h => rw [if_pos (by omega), State.deserBlock, wordByte_dinBytes s w 0 n h, Nat.zero_add]
  next h =>
    refine if_ctx_congr Iff.rfl (fun h2 => ?_) fun _ => rfl
    rw [State.deserBlock, wordByte_dinBytes s w _ _ (by omega), show w.bytes + (n - w.bytes) = n by omega]

/-- The words of a serialized block are the words it was made of. -/
theorem deserBlock_of_serBlock {x y : Word w} (h : s.din = serBlock w x y) : s.deserBlock w = (x, y) := by
  have hu := width_bytes_le w
  refine deserBlock_eq fun k hk => ⟨?_, ?_⟩
  · rw [State.dinByte, h, serBlock_byte w x y k (by omega), if_pos hk]
  · rw [State.dinByte, h, serBlock_byte w x y _ (by omega), if_neg (by omega), if_pos (by omega),
      Nat.add_sub_cancel_left]

theorem setWidth_zext128 (x : Word w) : (zext128 x).setWidth w.bits = x :=
  (BitVec.setWidth_setWidth_of_le x (width_bits_le w)).trans (BitVec.setWidth_eq x)

end

/-- Settles O21: the operands that DESER extends and SER reduces again are the words of the block. -/
theorem deserThenSerCopiesBlock : Obligations.DeserThenSerCopiesBlock := by
  intro s h
  obtain ⟨w, hw, -, hu⟩ := exists_width h
  refine ⟨_, _, execDeser_width hw, execSer_width hw, rfl, fun n hn => ?_⟩
  rw [← hu, ← serBlock_deserBlock_byte s w hn]
  simp only [State.doutByte, State.complete_dout, State.setDout_dout, State.operandA, State.operandB,
    State.complete_opa, State.complete_opb, State.setOperands_opa, State.setOperands_opb, setWidth_zext128]

section
variable {f g : {w : Nat} → (Nat → BitVec w) → Nat → BitVec w × BitVec w → BitVec w × BitVec w} {s : State} {w : Width}

/-- A block command on a serialized block works on the words it was made of. -/
theorem blockCommand_of_serBlock {x y : Word w} (hw : s.width = some w) (hk : s.keyValid = true)
    (hd : s.din = serBlock w x y) :
    (blockCommand g s).dout =
      serBlock w (g (s.subkey w) s.rounds (x, y)).1 (g (s.subkey w) s.rounds (x, y)).2 := by
  rw [blockCommand_valid hw hk, deserBlock_of_serBlock hd]
  rfl

/-- A block command on the output of another whose transform it undoes brings the block back. -/
theorem blockCommand_undoes
    (hgf : ∀ {w : Nat} (sk : Nat → BitVec w) (r : Nat) (p : BitVec w × BitVec w), g sk r (f sk r p) = p)
    (hw : s.width = some w) (hk : s.keyValid = true) {n : Nat} (hn : n < 2 * w.bytes) :
    (blockCommand g { blockCommand f s with din := (blockCommand f s).dout }).doutByte n = s.dinByte n := by
  have hu := width_bytes_le w
  have hblock := serBlock_deserBlock_byte s w (n := n) (by omega)
  rw [if_pos hn, ← hgf (s.subkey w) s.rounds (s.deserBlock w)] at hblock
  rw [blockCommand_valid hw hk]
  refine Eq.trans (congrArg (blockByte · n) ?_) hblock
  exact blockCommand_of_serBlock hw hk rfl

end

/-- Settles O25: ENC and DEC are the block commands of two transforms that undo each other. -/
theorem decUndoesEnc : Obligations.DecUndoesEnc := by
  intro s h hk
  obtain ⟨w, hw, -, hu⟩ := exists_width h
  rw [← hu]
  exact ⟨⟨_, _, rfl, rfl, fun n => blockCommand_undoes inv_fwd hw hk⟩,
    ⟨_, _, rfl, rfl, fun n => blockCommand_undoes fwd_inv hw hk⟩⟩

end Sys2Proof.Machine
end

section
/-! PROOF. The key schedule in closed form: pack, sinit, and what KS leaves in S and L (spec/42_key_schedule.md R170 to
R177). -/

namespace Sys2Proof.Machine

/-! The number of key words (spec/42_key_schedule.md R170). -/

theorem keyWordCount_pos (u b : Nat) : 1 ≤ keyWordCount u b := le_max_left _ _

theorem le_keyWordCount_mul {u : Nat} (hu : 0 < u) (b : Nat) : b ≤ keyWordCount u b * u := by
  have hdiv := Nat.lt_div_mul_add hu (a := b + u - 1)
  have hmax : (b + u - 1) / u * u ≤ keyWordCount u b * u := Nat.mul_le_mul_right u (le_max_right _ _)
  omega

theorem keyWordCount_le_of {u b c : Nat} (hu : 0 < u) (hc : 1 ≤ c) (hb : b ≤ c * u) : keyWordCount u b ≤ c := by
  refine max_le hc (Nat.le_of_lt_succ ((Nat.div_lt_iff_lt_mul hu).mpr ?_))
  rw [Nat.succ_mul]
  omega

/-- Settles O27: the rounded-up quotient is the least count for b bytes, and 1 is the least count at all. -/
theorem keyWordCountIsCeiling : Obligations.KeyWordCountIsCeiling := fun u b hu =>
  ⟨keyWordCount_pos u b, le_keyWordCount_mul hu b, fun _ => keyWordCount_le_of hu⟩

/-! sinit (spec/42_key_schedule.md R174). -/

theorem sinitFrom_getElem? {w : Nat} (q : BitVec w) {n i : Nat} (h : i < n) (x : BitVec w) :
    (sinitFrom q n x)[i]? = some (x + BitVec.ofNat w i * q) := by
  induction n generalizing i x with
  | zero => exact absurd h i.not_lt_zero
  | succ n ih =>
    cases i with
    | zero => simp [sinitFrom]
    | succ i =>
      rw [sinitFrom, List.getElem?_cons_succ, ih (Nat.lt_of_succ_lt_succ h), addW_eq, BitVec.ofNat_add,
        show BitVec.ofNat w 1 = 1 from rfl, add_mul, one_mul, add_assoc, add_comm q]

theorem sinit_getElem? (w : Width) {t i : Nat} (h : i < t) :
    (sinit w t)[i]? = some (constP w + BitVec.ofNat w.bits i * constQ w) :=
  sinitFrom_getElem? (constQ w) h (constP w)

/-- Settles O28: adding Q_w once for each entry multiplies it by the entry's number. -/
theorem sinitFollowsRecurrence : Obligations.SinitFollowsRecurrence := fun w t =>
  ⟨sinit_length w t, fun _ => sinit_getElem? w⟩

/-! pack (spec/42_key_schedule.md R172, R173). -/

section
variable {w u : Nat}

theorem wordByte_getLsbD (x : BitVec w) (m i : Nat) (hi : i < 8) :
    (wordByte x m).getLsbD i = x.getLsbD (8 * m + i) := by
  simp [wordByte, hi]

/-- The byte that a packing step adds goes where the rotation has brought the top byte; while that byte is 0 the step
shifts the word up by one byte. -/
theorem packWord_getLsbD (hw : w = 8 * u) (hu : 2 ≤ u) {x : BitVec w} (htop : wordByte x (u - 1) = 0) (y : Byte)
    {k : Nat} (hk : k < w) :
    (addW (rotlW x 8) (y.setWidth w)).getLsbD k = if k < 8 then y.getLsbD k else x.getLsbD (k - 8) := by
  have hrot : ∀ k < w, (rotlW x 8).getLsbD k = if k < 8 then false else x.getLsbD (k - 8) := by
    intro k hk
    rw [rotlW_getLsbD, decide_eq_true hk, Bool.true_and, Nat.mod_eq_of_lt (by omega : 8 < w)]
    split
    next h =>
      rw [Nat.mod_eq_of_lt (by omega), show k + w - 8 = 8 * (u - 1) + k by omega, ← wordByte_getLsbD x _ k h, htop]
      simp
    next h => rw [show k + w - 8 = k - 8 + w by omega, Nat.add_mod_right, Nat.mod_eq_of_lt (by omega)]
  have hdisj : rotlW x 8 &&& y.setWidth w = 0#w := by
    apply BitVec.eq_of_getLsbD_eq
    intro k hk
    rw [BitVec.getLsbD_and, hrot k hk, BitVec.getLsbD_setWidth, BitVec.getLsbD_zero]
    split
    next h => simp
    next h => simp [BitVec.getLsbD_of_ge y k (by omega)]
  rw [addW_eq, BitVec.add_eq_or_of_and_eq_zero _ _ hdisj, BitVec.getLsbD_or, hrot k hk, BitVec.getLsbD_setWidth]
  split
  next h => simp [hk]
  next h => simp [BitVec.getLsbD_of_ge y k (by omega)]

/-- The bytes of a word after a packing step: the key byte, then the bytes it had. -/
theorem packWord_byte (hw : w = 8 * u) (hu : 2 ≤ u) {x : BitVec w} (htop : wordByte x (u - 1) = 0) (y : Byte) {m : Nat}
    (hm : m < u) :
    wordByte (addW (rotlW x 8) (y.setWidth w)) m = if m = 0 then y else wordByte x (m - 1) := by
  apply BitVec.eq_of_getLsbD_eq
  intro i hi
  rw [wordByte_getLsbD _ m i hi, packWord_getLsbD hw hu htop y (by omega)]
  cases m with
  | zero => simp [hi]
  | succ m =>
    rw [if_neg (by omega), if_neg m.succ_ne_zero, wordByte_getLsbD _ _ i hi]
    congr 1
    omega

/-- The key words when the packing loop has n key bytes left: word j holds its bytes from n on, the lowest of them in
byte 0. -/
def PackedFrom (u b : Nat) (key : Nat → Byte) (n : Nat) (ls : List (BitVec w)) : Prop :=
  ∀ j, ∀ m < u, wordByte (ls.getD j 0) m =
    if max n (j * u) + m < min b (j * u + u) then key (max n (j * u) + m) else 0

theorem packedFrom_replicate (u b c : Nat) (key : Nat → Byte) :
    PackedFrom u b key b (List.replicate c (0 : BitVec w)) := by
  intro j m _
  rw [if_neg (by omega), List.getD_eq_getElem?_getD, List.getElem?_getD_replicate_default_eq]
  simp [wordByte]

/-- A packing step takes one key byte in. -/
theorem PackedFrom.packByte (hw : w = 8 * u) (hu : 2 ≤ u) {b k : Nat} {key : Nat → Byte} {ls : List (BitVec w)}
    (h : PackedFrom u b key (k + 1) ls) (hk : k < b) (hlen : k / u < ls.length) :
    PackedFrom u b key k (packByte u key k ls) := by
  have hlow : k / u * u ≤ k := Nat.div_mul_le_self k u
  have hhigh : k < k / u * u + u := Nat.lt_div_mul_add (by omega)
  intro j m hm
  rw [Machine.packByte, getD_set_of_lt hlen]
  split
  next hj =>
    subst hj
    have htop : wordByte (ls.getD (k / u) 0) (u - 1) = 0 := by
      rw [h _ _ (by omega), if_neg (by omega)]
    rw [packWord_byte hw hu htop _ hm, Nat.max_eq_left hlow]
    split
    next hm0 => rw [hm0, if_pos (by omega)]; rfl
    next hm0 => rw [h _ _ (by omega), Nat.max_eq_left (by omega), show k + 1 + (m - 1) = k + m by omega]
  next hj =>
    rw [h j m hm]
    rcases Nat.lt_or_gt_of_ne hj with hlt | hgt
    · have : j * u + u ≤ k / u * u := by rw [← Nat.succ_mul]; exact Nat.mul_le_mul_right u hlt
      rw [if_neg (by omega), if_neg (by omega)]
    · have : k / u * u + u ≤ j * u := by rw [← Nat.succ_mul]; exact Nat.mul_le_mul_right u hgt
      rw [Nat.max_eq_right (by omega), Nat.max_eq_right (by omega)]

theorem PackedFrom.packLoop (hw : w = 8 * u) (hu : 2 ≤ u) {b n : Nat} {key : Nat → Byte} {ls : List (BitVec w)}
    (h : PackedFrom u b key n ls) (hn : n ≤ b) (hlen : n ≤ ls.length * u) :
    PackedFrom u b key 0 (packLoop u key n ls) := by
  induction n generalizing ls with
  | zero => exact h
  | succ k ih =>
    have hk : k / u < ls.length := (Nat.div_lt_iff_lt_mul (by omega)).mpr (by omega)
    exact ih (h.packByte hw hu (by omega) hk) (by omega) (by rw [packByte_length]; omega)

end

/-- Byte m of key word j is key byte j·u + m, and 0 beyond the key (spec/42_key_schedule.md R173). -/
theorem pack_byte (w : Width) (b : Nat) (key : Nat → Byte) (j : Nat) {m : Nat} (hm : m < w.bytes) :
    wordByte ((pack w b key).getD j 0) m = if j * w.bytes + m < b then key (j * w.bytes + m) else 0 := by
  have hlen : b ≤ (List.replicate (keyWordCount w.bytes b) (0 : Word w)).length * w.bytes := by
    rw [List.length_replicate]
    exact le_keyWordCount_mul (by omega) b
  have h := (packedFrom_replicate w.bytes b _ key).packLoop (width_bits_eq w) (width_bytes_pos w) le_rfl hlen
  rw [pack, h j m hm, Nat.zero_max]
  refine if_ctx_congr ?_ (fun _ => rfl) fun _ => rfl
  omega

/-- Settles O26: by induction over the loop, in which every word keeps a 0 in its top byte until its last key byte. -/
theorem packIsLittleEndian : Obligations.PackIsLittleEndian := by
  refine fun w b key => ⟨pack_length w b key, fun j m hm x hx => ?_⟩
  rw [← pack_byte w b key j hm, List.getD_eq_getElem?_getD, hx, Option.getD_some]

/-! KS (spec/42_key_schedule.md R177). -/

theorem pack_ne_nil (w : Width) (b : Nat) (key : Nat → Byte) : pack w b key ≠ [] :=
  List.ne_nil_of_length_pos (by rw [pack_length]; exact keyWordCount_pos _ _)

theorem sinit_ne_nil (w : Width) (r : Nat) : sinit w (subkeyCount r) ≠ [] :=
  List.ne_nil_of_length_pos (by rw [sinit_length, subkeyCount]; omega)

/-- Settles O30: the sequences are those of the mixing states from the words of pack and sinit; KS writes their last
entries and sets KEY_VALID. -/
theorem ksDerivesExpandedKey : Obligations.KsDerivesExpandedKey := by
  intro s w hw hb hr
  have htrace := mixAt_mixTrace (pack_ne_nil w s.keyLen s.keyByte) (sinit_ne_nil w s.rounds)
    (3 * max (2 * (s.rounds + 1)) (keyWordCount w.bytes s.keyLen))
  rw [sinit_length, pack_length] at htrace
  refine ⟨_, _, _, _, _, execKs_ok hw hb hr, rfl, htrace, fun i hi => ?_, fun j hj m hm => ?_, fun i => ?_, fun j => ?_⟩
  · rw [List.getD_eq_getElem?_getD]
    exact congrArg (Option.getD · 0) (sinit_getElem? w hi)
  · exact pack_byte w s.keyLen s.keyByte j hm
  · rw [withSchedule_subkeys_lookup]
    refine if_ctx_congr Iff.rfl (fun hi => ?_) fun _ => rfl
    have hi' : i < (sinit w (subkeyCount s.rounds)).length := by rwa [sinit_length]
    rw [keySchedule, mix_eq_mixAt, mixAt_s_getElem? hi', sinit_length, pack_length]
    rfl
  · rw [withSchedule_keyWords_lookup]
    refine if_ctx_congr Iff.rfl (fun hj => ?_) fun _ => rfl
    have hj' : j < (pack w s.keyLen s.keyByte).length := by rwa [pack_length]
    rw [keySchedule, mix_eq_mixAt, mixAt_l_getElem? hj', sinit_length, pack_length]
    rfl

/-! What KS computes from (spec/42_key_schedule.md R177). -/

theorem packLoop_congr {w u n : Nat} {key key' : Nat → Byte} (h : ∀ k < n, key k = key' k) (ls : List (BitVec w)) :
    packLoop u key n ls = packLoop u key' n ls := by
  induction n generalizing ls with
  | zero => rfl
  | succ n ih =>
    rw [packLoop, packLoop, packByte, packByte, h n n.lt_succ_self]
    exact ih (fun k hk => h k (Nat.lt_succ_of_lt hk)) _

/-- The schedule depends on the key bytes below b only. -/
theorem keySchedule_congr {w : Width} {r b : Nat} {key key' : Nat → Byte} (h : ∀ k < b, key k = key' k) :
    keySchedule w r b key = keySchedule w r b key' := by
  rw [keySchedule, keySchedule, pack, pack, packLoop_congr h]

/-- Settles O32: both states run the same schedule, of the same width, counts and key bytes below b. -/
theorem ksDependsOnlyOnItsInputs : Obligations.KsDependsOnlyOnItsInputs := by
  intro s s' t t' hwsel hrounds hlen hkey h hb hr ht ht' i (hi : i < subkeyCount s.rounds)
  obtain ⟨w, hw⟩ := width_of_wsel h
  have hw' : s'.width = some w := (congrArg widthOfWsel hwsel).symm.trans hw
  cases ht.symm.trans (execKs_ok hw hb hr)
  cases ht'.symm.trans (execKs_ok hw' (hlen ▸ hb) (hrounds ▸ hr))
  have hsome : i < (keySchedule w s.rounds s.keyLen s.keyByte).s.length := by rwa [keySchedule_s_length]
  have hi' : i < subkeyCount s'.rounds := hrounds ▸ hi
  rw [withSchedule_subkeys_lookup, withSchedule_subkeys_lookup, if_pos hi, if_pos hi', ← hrounds, ← hlen,
    ← keySchedule_congr hkey, List.getElem?_eq_getElem hsome]
  exact ⟨_, rfl, rfl⟩

end Sys2Proof.Machine
end

section
/-! PROOF. The opcode map's words, the register map, and what a landed write changes and a read shows
(spec/10_state.md R23 to R41, spec/20_memory.md R65 to R73, spec/30_encoding.md R96, R102). -/

namespace Sys2Proof.Machine

/-! The opcode map (spec/30_encoding.md R96 to R98). -/

theorem decodeTableWord_encode (i : Instr) : decodeTableWord 32 (encode i).toNat = some i := by
  rw [decodeTableWord, tableWord_encode, decode_encode]

/-- Settles O1: the eleven words are those of the instructions; the others lie in the two illegal ranges. -/
theorem tableWordsDecode : Obligations.TableWordsDecode := by
  have opcode {v : Reg32} := (decode_eq_reservedOpcode_iff v).mpr
  have rsvd {v : Reg32} := (decode_eq_reservedBits_iff v).mpr
  exact ⟨decodeTableWord_encode .nop, decodeTableWord_encode .ks, decodeTableWord_encode .enc,
    decodeTableWord_encode .dec, decodeTableWord_encode .add, decodeTableWord_encode .sub,
    decodeTableWord_encode .xor, decodeTableWord_encode .rotl, decodeTableWord_encode .rotr,
    decodeTableWord_encode .deser, decodeTableWord_encode .ser, opcode (by decide), opcode (by decide),
    opcode (by decide), opcode (by decide), opcode (by decide), rsvd (by decide), rsvd (by decide)⟩

/-! The register map (spec/10_state.md R23). -/

/-- The register found at an offset lies at that offset, rounded down to 4 bytes. -/
theorem regOffset_of_regAt {off : BitVec 14} {r : Reg} (h : regAt off = some r) :
    (regOffset r).toNat = 4 * (off.toNat / 4) := by
  simp only [regAt, ite_eq_iff, Option.some.injEq, reduceCtorEq, and_false, false_or, or_false] at h
  rcases h with ⟨_, ⟨_, rfl⟩ | ⟨_, ⟨_, rfl⟩ | ⟨_, ⟨_, rfl⟩ | ⟨_, ⟨_, rfl⟩ | ⟨_, _, rfl⟩⟩⟩⟩⟩ | ⟨_, ⟨_, rfl⟩ |
    ⟨_, ⟨_, rfl⟩ | ⟨_, ⟨_, rfl⟩ | ⟨_, ⟨_, rfl⟩ | ⟨_, ⟨_, rfl⟩ | ⟨_, ⟨_, rfl⟩ | ⟨_, ⟨_, rfl⟩ | ⟨_, _, ⟨_, rfl⟩ |
    ⟨_, _, _, rfl⟩⟩⟩⟩⟩⟩⟩⟩⟩
  all_goals
    simp only [regOffset, BitVec.ofNat_eq_ofNat, BitVec.toNat_ofNat, Fin.val_ofNat]
    omega

/-- Settles O3: the map finds each register at its offset, what it finds at an aligned offset lies there, and it finds
nothing exactly in the reserved ranges. -/
theorem registerMapIsOneToOne : Obligations.RegisterMapIsOneToOne := by
  refine ⟨fun r => ⟨(extractLsb'_low_eq_zero_iff _).mp (regOffset_aligned r), regAt_regOffset r⟩,
    fun off r halign => ⟨fun h => ?_, fun h => h ▸ regAt_regOffset r⟩, fun off _ => regAt_eq_none_iff off⟩
  apply BitVec.eq_of_toNat_eq
  rw [regOffset_of_regAt h]
  omega

/-! SETCFG (spec/30_encoding.md R102). -/

section
variable {a : ConfigArgs}

theorem encodable_iff : a.encodable = true ↔ a.rounds < 512 ∧ a.keyLen < 512 := by
  simp [ConfigArgs.encodable]

theorem wselOfWidth_le (w : Width) : wselOfWidth w ≤ 3 := by cases w <;> decide

theorem widthOfWsel_wselOfWidth (w : Width) : widthOfWsel (wselOfWidth w) = some w := by cases w <;> rfl

/-- With its arguments inside their fields the word of a SETCFG is their sum. -/
theorem configWord_toNat (h : a.encodable = true) :
    (configWord a).toNat = wselOfWidth a.width + a.rounds * 2 ^ 8 + a.keyLen * 2 ^ 20 := by
  obtain ⟨hr, hk⟩ := encodable_iff.mp h
  have hw := wselOfWidth_le a.width
  rw [configWord, BitVec.toNat_ofNat]
  omega

/-- The fields of the word of a SETCFG are its arguments. -/
theorem configWord_fields (h : a.encodable = true) :
    (configWord a).toNat % 2 ^ 3 = wselOfWidth a.width ∧ (configWord a).toNat / 2 ^ 8 % 2 ^ 9 = a.rounds ∧
    (configWord a).toNat / 2 ^ 20 % 2 ^ 9 = a.keyLen := by
  obtain ⟨hr, hk⟩ := encodable_iff.mp h
  have hw := wselOfWidth_le a.width
  rw [configWord_toNat h]
  omega

theorem configWord_masked (h : a.encodable = true) : configWord a &&& 0x1FF1FF07#32 = configWord a := by
  obtain ⟨hw, hr, hk⟩ := configWord_fields h
  rw [configMask_value, hw, hr, hk, configWord]

/-- What the CONFIG write of a SETCFG leaves. -/
theorem setConfig_configWord (h : a.encodable = true) (s : State) :
    (s.setConfig (configWord a)).width = some a.width ∧ (s.setConfig (configWord a)).rounds = a.rounds ∧
    (s.setConfig (configWord a)).keyLen = a.keyLen := by
  obtain ⟨hw, hr, hk⟩ := configWord_fields h
  refine ⟨?_, (setConfig_rounds _ s).trans hr, (setConfig_keyLen _ s).trans hk⟩
  rw [State.width, setConfig_wsel, hw, widthOfWsel_wselOfWidth]

end

/-- Settles O4: the three fields of the word are the arguments, and the mask keeps the three fields. -/
theorem setCfgIsReadBack : Obligations.SetCfgIsReadBack := by
  intro s c a hi h
  rw [access_configWrite_idle hi, State.respond_config, State.respond_width, State.respond_rounds, State.respond_keyLen]
  exact ⟨configWord_masked h, setConfig_configWord h s⟩

/-! Writes that land (spec/10_state.md R35, R37, R40). -/

/-- Settles O40: the write is `setKey`, which lists the four bytes of its register. -/
theorem keyWriteReplacesFourBytes : Obligations.KeyWriteReplacesFourBytes := by
  intro s c k v hi
  rw [access_hostWrite_idle hi c _ v (State.setKey k v) rfl]
  refine ⟨_, rfl, rfl, fun m hm => ?_, fun n hn => ?_⟩
  · rw [State.respond_keyByte, setKey_keyByte, if_pos (by omega), Nat.add_sub_cancel_left, laneByte]
  · rw [State.respond_keyByte, setKey_keyByte, if_neg (by omega)]

/-- Settles O41: the writes are `setDin`, `setOpa` and `setOpb`, each of one lane of one register. -/
theorem operandWritesChangeOneRegister : Obligations.OperandWritesChangeOneRegister := by
  refine ⟨fun s c k v hi => ?_, fun s c k v hi => ?_, fun s c k v hi => ?_⟩
  · rw [access_hostWrite_idle hi c _ v (State.setDin k v) rfl]
    exact ⟨_, rfl, rfl, setDin_dinByte k v s⟩
  · rw [access_hostWrite_idle hi c _ v (State.setOpa k v) rfl]
    exact ⟨_, rfl, rfl, setQuarter_getLsbD s.opa k v⟩
  · rw [access_hostWrite_idle hi c _ v (State.setOpb k v) rfl]
    exact ⟨_, rfl, rfl, setQuarter_getLsbD s.opb k v⟩

/-- Settles O44: `writeReg` of a read-only register is the identity, so that only the answer is left. -/
theorem readOnlyWritesAreIgnored : Obligations.ReadOnlyWritesAreIgnored := by
  intro s c r v h
  rw [access_hostWrite, writeReg_readOnly h]
  rfl

/-! What the registers show (spec/10_state.md R24, R36, R38, R40, R41). -/

theorem laneByte_key (s : State) (k : Fin 64) {m : Nat} (hm : m < 4) :
    laneByte (s.regValue (.key k)) m = s.keyByte (4 * k.val + m) := by
  rw [State.regValue, laneByte_laneReg _ _ _ _ m hm]
  interval_cases m <;> rfl

theorem quarter_getLsbD_of_lt (x : Reg128) (k : Nat) {n : Nat} (hn : n < 32) :
    (quarter x k).getLsbD n = x.getLsbD (32 * k + n) := by
  rw [quarter_getLsbD, decide_eq_true hn, Bool.true_and]

/-- Settles O49: the registers are lanes of DOUT_B and KEYBUF, and quarters of RES and of the entries of S. -/
theorem readOnlyRegistersShowState : Obligations.ReadOnlyRegistersShowState := fun s =>
  ⟨rfl, laneByte_dout s, fun k _ => quarter_getLsbD_of_lt s.res k,
    fun i q _ => quarter_getLsbD_of_lt (s.subkeyEntry i) q, fun k _ => laneByte_key s k⟩

/-! What the registers show after a write (spec/20_memory.md R73). -/

section
variable (s : State) (v : Reg32) {r : Reg}

theorem setDin_regValue_self (k : Fin 8) : (s.setDin k v).regValue (.din k) = v := Vector.getElem_set_self _

theorem setDin_regValue_of_ne {k : Fin 8} (h : r ≠ .din k) : (s.setDin k v).regValue r = s.regValue r := by
  cases r with
  | din j => exact Vector.getElem_set_ne k.isLt j.isLt fun hkj => h (congrArg Reg.din (Fin.ext hkj.symm))
  | _ => rfl

theorem setOpa_regValue_self (k : Fin 4) : (s.setOpa k v).regValue (.opa k) = v :=
  (quarter_setQuarter s.opa k k v).trans (if_pos rfl)

theorem setOpa_regValue_of_ne {k : Fin 4} (h : r ≠ .opa k) : (s.setOpa k v).regValue r = s.regValue r := by
  cases r with
  | opa j => exact (quarter_setQuarter s.opa k j v).trans (if_neg fun hjk => h (congrArg Reg.opa hjk))
  | _ => rfl

theorem setOpb_regValue_self (k : Fin 4) : (s.setOpb k v).regValue (.opb k) = v :=
  (quarter_setQuarter s.opb k k v).trans (if_pos rfl)

theorem setOpb_regValue_of_ne {k : Fin 4} (h : r ≠ .opb k) : (s.setOpb k v).regValue r = s.regValue r := by
  cases r with
  | opb j => exact (quarter_setQuarter s.opb k j v).trans (if_neg fun hjk => h (congrArg Reg.opb hjk))
  | _ => rfl

theorem setKey_regValue_self (k : Fin 64) : (s.setKey k v).regValue (.key k) = v := by
  have hlane : ∀ m < 4, (s.setKey k v).keyByte (4 * k.val + m) = laneByte v m := fun m hm => by
    rw [setKey_keyByte, if_pos (by omega), Nat.add_sub_cancel_left]
  rw [State.regValue, hlane 1 (by omega), hlane 2 (by omega), hlane 3 (by omega), ← Nat.add_zero (4 * k.val),
    hlane 0 (by omega), laneReg_laneByte]

/-- A KEY write shows in its own register, and in STATUS by clearing KEY_VALID. -/
theorem setKey_regValue_of_ne {k : Fin 64} (h : r ≠ .key k) (hs : r ≠ .status) :
    (s.setKey k v).regValue r = s.regValue r := by
  cases r with
  | key j =>
    have hjk : j.val ≠ k.val := fun e => h (congrArg Reg.key (Fin.ext e))
    have hlane : ∀ m < 4, (s.setKey k v).keyByte (4 * j.val + m) = s.keyByte (4 * j.val + m) := fun m hm => by
      rw [setKey_keyByte, if_neg (by omega)]
    have hlane0 := hlane 0 (by omega)
    rw [Nat.add_zero] at hlane0
    simp only [State.regValue, hlane0, hlane 1 (by omega), hlane 2 (by omega), hlane 3 (by omega)]
  | status => exact absurd rfl hs
  | _ => rfl

end

/-- A landed write whose register then shows the value, the others but STATUS being as before, is read back. -/
theorem write_is_read_back {s : State} {c : Bool} {r : Reg} {v : Reg32} {f : State → State} (hi : s.engine = .idle)
    (hw : s.writeReg c r v = s.whenIdle f) (hf : (f s).engine = .idle) (hself : (f s).regValue r = v)
    (hne : ∀ r', r' ≠ r → r' ≠ .status → (f s).regValue r' = s.regValue r') :
    ((s.access c (hostWrite r v)).access c (hostRead r)).response = some { resp := .ok, rdata := some v } ∧
    ∀ r', r' ≠ r → r' ≠ .status →
      ((s.access c (hostWrite r v)).access c (hostRead r')).response = (s.access c (hostRead r')).response := by
  have hread (r' : Reg) : ((s.access c (hostWrite r v)).access c (hostRead r')).response =
      some { resp := .ok, rdata := some ((f s).regValue r') } := by
    rw [access_hostWrite_idle hi c r v f hw, access_hostRead, readReg_idle (s := (f s).respond _ _) hf,
      State.respond_regValue, State.respond_response]
  refine ⟨by rw [hread, hself], fun r' hr hs => ?_⟩
  rw [hread, hne r' hr hs, access_hostRead, readReg_idle hi, State.respond_response]

/-- Settles O42: each of the four writes shows in its own register, and otherwise in STATUS alone. -/
theorem writtenValueIsReadBack : Obligations.WrittenValueIsReadBack := by
  intro s c r v hi hr
  rcases hr with ⟨k, rfl⟩ | ⟨k, rfl⟩ | ⟨k, rfl⟩ | ⟨k, rfl⟩
  · exact write_is_read_back (f := State.setDin k v) hi rfl hi (setDin_regValue_self s v k)
      fun _ h _ => setDin_regValue_of_ne s v h
  · exact write_is_read_back (f := State.setOpa k v) hi rfl hi (setOpa_regValue_self s v k)
      fun _ h _ => setOpa_regValue_of_ne s v h
  · exact write_is_read_back (f := State.setOpb k v) hi rfl hi (setOpb_regValue_self s v k)
      fun _ h _ => setOpb_regValue_of_ne s v h
  · exact write_is_read_back (f := State.setKey k v) hi rfl hi (setKey_regValue_self s v k)
      fun _ h hs => setKey_regValue_of_ne s v h hs

/-! A stale schedule (spec/70_reset_and_hazards.md R298). -/

/-- A CONFIG or KEY write that lands clears KEY_VALID. -/
theorem access_schedule_write_keyValid {s : State} {r : Reg} (hi : s.engine = .idle)
    (hr : r = .config ∨ ∃ k, r = .key k) (c : Bool) (v : Reg32) : (s.access c (hostWrite r v)).keyValid = false := by
  rcases hr with rfl | ⟨k, rfl⟩
  · rw [access_configWrite_idle hi]; rfl
  · rw [access_hostWrite_idle hi c _ v (State.setKey k v) rfl]; rfl

/-- Settles O51: with KEY_VALID 0 and a legal width ENC and DEC only complete, with NoKeySchedule. -/
theorem landedKeyWriteMakesScheduleStale : Obligations.LandedKeyWriteMakesScheduleStale := by
  intro s c r v hi hr hwsel
  have hk := access_schedule_write_keyValid hi hr c v
  obtain ⟨hdout, -, hsub, -, -, -⟩ := access_outputs s c (hostWrite r v)
  exact ⟨⟨_, congrArg Host.Outcome.next (blockCommand_no_schedule hwsel hk), rfl, hdout, hsub⟩,
    ⟨_, congrArg Host.Outcome.next (blockCommand_no_schedule hwsel hk), rfl, hdout, hsub⟩⟩

end Sys2Proof.Machine
end

section
/-! PROOF. The host reference driver: what a call computes, from any state with an idle engine
(spec/45_block_codec_driver.md R240 to R246). -/

namespace Sys2Proof.Machine

/-! The transforms read the subkeys 0 to 2r + 1 only (spec/43_round_transform.md R200, R201). -/

section
variable {w : Nat} {sk sk' : Nat → BitVec w} {r : Nat}

theorem fwdRounds_congr (h : ∀ j < 2 * (r + 1), sk j = sk' j) (p : BitVec w × BitVec w) :
    fwdRounds sk r p = fwdRounds sk' r p := by
  induction r with
  | zero => rfl
  | succ r ih =>
    rw [fwdRounds, fwdRounds, ih fun j hj => h j (by omega), fwdRound, fwdRound, h _ (by omega), h _ (by omega)]

theorem fwd_congr (h : ∀ j < 2 * (r + 1), sk j = sk' j) (p : BitVec w × BitVec w) : fwd sk r p = fwd sk' r p := by
  rw [fwd, fwd, h 0 (by omega), h 1 (by omega), fwdRounds_congr h]

theorem invRounds_congr (h : ∀ j < 2 * (r + 1), sk j = sk' j) (p : BitVec w × BitVec w) :
    invRounds sk r p = invRounds sk' r p := by
  induction r generalizing p with
  | zero => rfl
  | succ r ih =>
    rw [invRounds, invRounds, invRound, invRound, h _ (by omega), h _ (by omega)]
    exact ih (fun j hj => h j (by omega)) _

theorem inv_congr (h : ∀ j < 2 * (r + 1), sk j = sk' j) (p : BitVec w × BitVec w) : inv sk r p = inv sk' r p := by
  rw [inv, inv, h 0 (by omega), h 1 (by omega), invRounds_congr h]

end

/-! Blocks as byte sequences (spec/41_serializer.md R153, R154). -/

/-- The bytes of a block's two words, in the order of DIN_B and DOUT_B. -/
def blockBytes (w : Width) (p : Word w × Word w) : List Byte := wordBytes w.bytes p.1 ++ wordBytes w.bytes p.2

/-- The two words of a block of bytes. -/
def blockWords (w : Width) (blk : List Byte) : Word w × Word w :=
  (leWord (blk.take w.bytes), leWord (blk.drop w.bytes))

section
variable {w : Width}

@[simp] theorem blockBytes_length (p : Word w × Word w) : (blockBytes w p).length = 2 * w.bytes := by
  simp only [blockBytes, List.length_append, wordBytes_length]
  omega

theorem blockWords_blockBytes (p : Word w × Word w) : blockWords w (blockBytes w p) = p := by
  rw [blockWords, blockBytes, List.take_left' (wordBytes_length _ _), List.drop_left' (wordBytes_length _ _),
    leWord_wordBytes (width_bits_eq w), leWord_wordBytes (width_bits_eq w)]

theorem blockBytes_blockWords {blk : List Byte} (h : blk.length = 2 * w.bytes) :
    blockBytes w (blockWords w blk) = blk := by
  rw [blockWords, blockBytes, wordBytes_leWord (width_bits_eq w) _ (by rw [List.length_take]; omega),
    wordBytes_leWord (width_bits_eq w) _ (by rw [List.length_drop]; omega), List.take_append_drop]

theorem wordByte_leWord {bs : List Byte} (h : bs.length = w.bytes) {k : Nat} (hk : k < w.bytes) :
    wordByte (leWord bs : Word w) k = bs.getD k 0 := by
  have e := wordBytes_getElem? w (leWord bs) k hk
  rw [wordBytes_leWord (width_bits_eq w) bs h] at e
  rw [List.getD_eq_getElem?_getD, e, Option.getD_some]

/-- The words of the block in DIN are those of its bytes. -/
theorem deserBlock_eq_blockWords {s : State} {blk : List Byte} (h : blk.length = 2 * w.bytes)
    (hd : ∀ n < 2 * w.bytes, s.dinByte n = blk.getD n 0) : s.deserBlock w = blockWords w blk := by
  refine deserBlock_eq fun k hk => ⟨?_, ?_⟩
  · rw [wordByte_leWord (by rw [List.length_take]; omega) hk, hd k (by omega)]
    simp [hk]
  · rw [wordByte_leWord (by rw [List.length_drop]; omega) hk, hd _ (by omega)]
    simp [List.getElem?_drop]

/-- Reading the first 2u bytes of a serialized block gives the bytes of its words. -/
theorem range_map_serBlock (p : Word w × Word w) :
    (List.range (2 * w.bytes)).map (blockByte (serBlock w p.1 p.2)) = blockBytes w p := by
  have hu := width_bytes_le w
  apply List.ext_getElem
  · simp
  · intro n h1 h2
    have hn : n < 2 * w.bytes := by simpa using h1
    rw [List.getElem_map, List.getElem_range, serBlock, blockByte_blockRegs _ n (by omega), ← blockBytes,
      List.getD_append _ _ _ _ h2, List.getD_eq_getElem _ _ h2]

end

/-- n blocks of m bytes, each through g, in order. -/
def mapBlocks (g : List Byte → List Byte) (m : Nat) : Nat → List Byte → List Byte
  | 0, _ => []
  | n + 1, inp => g (inp.take m) ++ mapBlocks g m n (inp.drop m)

section
variable {g g' : List Byte → List Byte} {m : Nat}

theorem mapBlocks_length (hg : ∀ blk, (g blk).length = m) (n : Nat) (inp : List Byte) :
    (mapBlocks g m n inp).length = n * m := by
  induction n generalizing inp with
  | zero => rw [Nat.zero_mul]; rfl
  | succ n ih => rw [mapBlocks, List.length_append, hg, ih, Nat.succ_mul, Nat.add_comm]

/-- Blocks that are brought back one by one are brought back together. -/
theorem mapBlocks_mapBlocks (hg : ∀ blk, (g blk).length = m)
    (hback : ∀ blk, blk.length = m → g' (g blk) = blk) (n : Nat) {inp : List Byte} (hinp : inp.length = n * m) : mapBlocks g' m n (mapBlocks g m n inp) = inp := by
  induction n generalizing inp with
  | zero => exact (List.length_eq_zero_iff.mp (hinp.trans (Nat.zero_mul m))).symm
  | succ n ih =>
    rw [Nat.succ_mul] at hinp
    rw [mapBlocks, mapBlocks, List.take_left' (hg _), List.drop_left' (hg _),
      hback _ (by rw [List.length_take]; omega), ih (by rw [List.length_drop]; omega), List.take_append_drop]

end

/-! The state between the commands of a driver call. -/

/-- The engine is idle, and a schedule of width w, r rounds and the subkeys sk stands in the core. -/
structure DriverReady (w : Width) (r : Nat) (sk : Nat → Word w) (s : State) : Prop where
  engine : s.engine = .idle
  width : s.width = some w
  rounds : s.rounds = r
  keyValid : s.keyValid = true
  subkey : ∀ j < 2 * (r + 1), s.subkey w j = sk j

/-- The subkeys of a driver call, from its arguments. -/
def driverSubkey (w : Width) (r : Nat) (key : List Byte) (j : Nat) : Word w :=
  (keySchedule w r key.length fun k => key.getD k 0).s.getD j 0

section
variable {s t : State} {w : Width} {r : Nat} {key : List Byte}

/-- The fields of CONFIG depend on CONFIG alone. -/
theorem config_fields_congr (h : t.config = s.config) :
    t.width = s.width ∧ t.rounds = s.rounds ∧ t.keyLen = s.keyLen := by
  simp only [State.width, State.wsel, State.rounds, State.keyLen, h, and_self]

theorem driverInput_w32 (r : Reg) (v : Reg32) (s : State) :
    driverInput (w32 (regOffset r) v) s = s.access false (hostWrite r v) :=
  busEdge_access false s rfl

/-- SETCFG leaves its arguments in CONFIG. -/
theorem driverInput_setCfg {a : ConfigArgs} (hi : s.engine = .idle) (h : a.encodable = true) :
    (driverInput (setCfgInput a) s).engine = .idle ∧ (driverInput (setCfgInput a) s).width = some a.width ∧
    (driverInput (setCfgInput a) s).rounds = a.rounds ∧ (driverInput (setCfgInput a) s).keyLen = a.keyLen := by
  rw [setCfgInput, driverInput_w32, access_configWrite_idle hi, State.respond_engine, State.setConfig_engine,
    State.respond_width, State.respond_rounds, State.respond_keyLen]
  exact ⟨hi, setConfig_configWord h s⟩

/-- LOADKEY leaves the key in KEYBUF, and CONFIG as it was. -/
theorem driverInputs_loadKey (hi : s.engine = .idle) (hlen : key.length ≤ 256) :
    (driverInputs (loadKeyInputs key) s).engine = .idle ∧
    (driverInputs (loadKeyInputs key) s).config = s.config ∧
    ∀ k < key.length, (driverInputs (loadKeyInputs key) s).keyByte k = key.getD k 0 := by
  obtain ⟨hplen, hplane⟩ := packLanes_spec key
  obtain ⟨hidle, hconf, hkey⟩ := writeRun_key (packLanes key) 0 (by omega) s hi
  refine ⟨hidle, hconf, fun k hk => (hkey k).trans ?_⟩
  rw [if_pos (by omega), Nat.mul_zero, Nat.sub_zero, hplane]

/-- The subkeys that a successful KS leaves are the words of the schedule. -/
theorem withSchedule_subkey {j : Nat} (hj : j < subkeyCount s.rounds) :
    (s.withSchedule w).subkey w j = (keySchedule w s.rounds s.keyLen s.keyByte).s.getD j 0 := by
  have hj' : j < (keySchedule w s.rounds s.keyLen s.keyByte).s.length := by rwa [keySchedule_s_length]
  rw [State.subkey, State.subkeyEntry, withSchedule_subkeys_lookup, if_pos hj, getElem?_eq_some_getD 0 hj',
    Option.map_some, Option.getD_some, setWidth_zext128]

/-- KS on the loaded arguments leaves their schedule in the core. -/
theorem driverCommand_ks (hi : s.engine = .idle) (hw : s.width = some w) (hr : s.rounds = r) (hr255 : r ≤ 255)
    (hlen : s.keyLen = key.length) (hlen256 : key.length ≤ 256) (hkey : ∀ k < key.length, s.keyByte k = key.getD k 0) :
    ∃ t, driverCommand .ks s = (t, 0x0) ∧ DriverReady w r (driverSubkey w r key) t := by
  obtain ⟨-, t, d, ht, -, hcmd⟩ := driverCommand_spec .ks s hi
  cases ht.symm.trans (execKs_ok (s := (s.accept (encode .ks)).respond .ok none) hw (hlen ▸ hlen256) (hr ▸ hr255))
  refine ⟨_, hcmd, rfl, hw, hr, rfl, fun j hj => ?_⟩
  refine (withSchedule_subkey (s := (s.accept (encode .ks)).respond .ok none) (hr.symm ▸ hj)).trans ?_
  rw [State.respond_rounds, State.accept_rounds, State.respond_keyLen, State.accept_keyLen, hr, hlen, driverSubkey]
  have hsched := keySchedule_congr (w := w) (r := r) hkey
  exact congrArg (fun m => m.s.getD j 0) hsched

/-- SETCFG, LOADKEY and KS: the schedule of a driver call's arguments stands in the core. -/
theorem driver_schedules (hi : s.engine = .idle) (hlen : key.length ≤ 256) (hr : r ≤ 255) :
    ∃ t, driverCommand .ks (driverInputs (loadKeyInputs key)
        (driverInput (setCfgInput { width := w, rounds := r, keyLen := key.length }) s)) = (t, 0x0) ∧
      DriverReady w r (driverSubkey w r key) t := by
  have henc : (ConfigArgs.mk w r key.length).encodable = true :=
    encodable_iff.mpr ⟨Nat.lt_of_le_of_lt hr (by omega), Nat.lt_of_le_of_lt hlen (by omega)⟩
  obtain ⟨hi1, hw1, hr1, hk1⟩ := driverInput_setCfg hi henc
  obtain ⟨hi2, hconf, hkey⟩ := driverInputs_loadKey hi1 hlen
  obtain ⟨hw2, hr2, hk2⟩ := config_fields_congr hconf
  exact driverCommand_ks hi2 (hw2.trans hw1) (hr2.trans hr1) hr (hk2.trans hk1) hlen hkey

/-! One block (spec/45_block_codec_driver.md R241). -/

theorem loadBlkInputs_eq (blk : List Byte) :
    loadBlkInputs blk = writeRun (BitVec.ofNat 14 (0x020 + 4 * 0)) (packLanes blk) := rfl

/-- LOADBLK leaves the block in DIN, and the schedule as it was. -/
theorem driverInputs_loadBlk {sk : Nat → Word w} {blk : List Byte} (h : DriverReady w r sk s)
    (hblk : blk.length = 2 * w.bytes) :
    DriverReady w r sk (driverInputs (loadBlkInputs blk) s) ∧
    (driverInputs (loadBlkInputs blk) s).deserBlock w = blockWords w blk := by
  have hu := width_bytes_le w
  obtain ⟨hplen, hplane⟩ := packLanes_spec blk
  obtain ⟨hidle, hconf, hsub, hvalid, hresets, hdin⟩ := writeRun_din (packLanes blk) 0 (by omega) s h.engine
  rw [← loadBlkInputs_eq] at hidle hconf hsub hvalid hresets hdin
  obtain ⟨hw, hr, -⟩ := config_fields_congr hconf
  refine ⟨⟨hidle, hw.trans h.width, hr.trans h.rounds, hvalid.trans h.keyValid, fun j hj => ?_⟩,
    deserBlock_eq_blockWords hblk fun n hn => (hdin n (by omega)).trans ?_⟩
  · rw [← h.subkey j hj]
    simp only [State.subkey, State.subkeyEntry, hsub, hresets]
  · rw [if_pos (by omega), Nat.mul_zero, Nat.sub_zero, hplane]

end

/-! The block commands: `f` is the transform of the instruction `i`, and reads the subkeys of r rounds only. -/

/-- What the driver needs to know of ENC and of DEC. -/
structure IsBlockCommand (i : Instr)
    (f : {w : Nat} → (Nat → BitVec w) → Nat → BitVec w × BitVec w → BitVec w × BitVec w) : Prop where
  exec_eq : ∀ s, exec i s = .next (blockCommand f s)
  not_ks : i ≠ .ks
  congr : ∀ {w : Nat} {sk sk' : Nat → BitVec w} {r : Nat}, (∀ j < 2 * (r + 1), sk j = sk' j) → ∀ p, f sk r p = f sk' r p

theorem isBlockCommand_enc : IsBlockCommand .enc fwd := ⟨fun _ => rfl, by decide, fwd_congr⟩

theorem isBlockCommand_dec : IsBlockCommand .dec inv := ⟨fun _ => rfl, by decide, inv_congr⟩

/-- A block of bytes through a transform. -/
def transformBlock (f : {w : Nat} → (Nat → BitVec w) → Nat → BitVec w × BitVec w → BitVec w × BitVec w) (w : Width)
    (sk : Nat → Word w) (r : Nat) (blk : List Byte) : List Byte :=
  blockBytes w (f sk r (blockWords w blk))

section
variable {i : Instr} {f : {w : Nat} → (Nat → BitVec w) → Nat → BitVec w × BitVec w → BitVec w × BitVec w}
  {s : State} {w : Width} {r : Nat} {sk : Nat → Word w}

@[simp] theorem transformBlock_length (blk : List Byte) : (transformBlock f w sk r blk).length = 2 * w.bytes :=
  blockBytes_length _

/-- A block command on a ready core completes with code 0, puts the transformed block into DOUT, and leaves the core
ready. -/
theorem driverCommand_block (hf : IsBlockCommand i f) (h : DriverReady w r sk s) :
    ∃ t, driverCommand i s = (t, 0x0) ∧ DriverReady w r sk t ∧
      t.dout = serBlock w (f sk r (s.deserBlock w)).1 (f sk r (s.deserBlock w)).2 := by
  obtain ⟨-, t, d, ht, -, hcmd⟩ := driverCommand_spec i s h.engine
  have hks : wordIsKs (encode i) = false := by simp [wordIsKs, hf.not_ks]
  have hvalid : ((s.accept (encode i)).respond .ok none).keyValid = true := by
    rw [State.respond_keyValid, State.accept_keyValid, hks, h.keyValid]; rfl
  rw [hf.exec_eq, blockCommand_valid (s := (s.accept (encode i)).respond .ok none) h.width hvalid] at ht
  cases ht
  refine ⟨_, hcmd, ⟨rfl, h.width, h.rounds, hvalid, h.subkey⟩, ?_⟩
  rw [← hf.congr h.subkey, ← h.rounds]
  rfl

/-- READBLK of a block: its bytes, and the core stays ready. -/
theorem driverReadBlk_block {p : Word w × Word w} (h : DriverReady w r sk s) (hd : s.dout = serBlock w p.1 p.2) :
    (driverReadBlk ((2 * w.bytes + 3) / 4) 0 s).2.take (2 * w.bytes) = blockBytes w p ∧
    DriverReady w r sk (driverReadBlk ((2 * w.bytes + 3) / 4) 0 s).1 := by
  have hu := width_bytes_le w
  obtain ⟨hbytes, resp, hstate⟩ := driverReadBlk_spec ((2 * w.bytes + 3) / 4) 0 (by omega) s h.engine
  refine ⟨?_, hstate ▸ { h with }⟩
  rw [hbytes, ← List.map_take, List.take_range, Nat.min_eq_left (by omega), ← range_map_serBlock, ← hd]
  simp only [Nat.mul_zero, Nat.zero_add]
  rfl

/-- The loop over the blocks transforms each of them. -/
theorem driverBlocks_spec (hf : IsBlockCommand i f) (h : DriverReady w r sk s) (n : Nat) {inp : List Byte}
    (hinp : inp.length = n * (2 * w.bytes)) (out : List Byte) :
    ∃ t, driverBlocks i w.bytes n inp out s =
        (t, .ok (out ++ mapBlocks (transformBlock f w sk r) (2 * w.bytes) n inp)) ∧
      t.engine = .idle := by
  induction n generalizing inp out s with
  | zero => exact ⟨s, by rw [driverBlocks, mapBlocks, List.append_nil], h.engine⟩
  | succ n ih =>
    rw [Nat.succ_mul] at hinp
    have hblk : (inp.take (2 * w.bytes)).length = 2 * w.bytes := by rw [List.length_take]; omega
    obtain ⟨hready, hwords⟩ := driverInputs_loadBlk h hblk
    obtain ⟨t, hcmd, ht, hdout⟩ := driverCommand_block hf hready
    obtain ⟨hbytes, hread⟩ := driverReadBlk_block ht hdout
    obtain ⟨u, hu, hidle⟩ := ih hread (inp := inp.drop (2 * w.bytes)) (by rw [List.length_drop]; omega)
      (out ++ transformBlock f w sk r (inp.take (2 * w.bytes)))
    refine ⟨u, ?_, hidle⟩
    rw [driverBlocks, hcmd, if_neg (not_not.mpr rfl)]
    dsimp only
    rw [hbytes, hwords, mapBlocks, ← List.append_assoc, ← hu]
    rfl

end

/-! A whole call (spec/45_block_codec_driver.md R241 to R243). -/

section
variable {i : Instr} {f : {w : Nat} → (Nat → BitVec w) → Nat → BitVec w × BitVec w → BitVec w × BitVec w}
  {e : ErrorKind} {key inp : List Byte} {r : Nat} {w : Width} {s : State}

/-- With legal arguments a call answers the transformed blocks, and leaves the engine idle. -/
theorem driverCall_legal (hf : IsBlockCommand i f) (hi : s.engine = .idle) (hlen : key.length ≤ 256) (hr : r ≤ 255)
    (hinp : inp.length % (2 * w.bytes) = 0) :
    ∃ t, driverCall i e key inp r w s =
        (t, .ok (mapBlocks (transformBlock f w (driverSubkey w r key) r) (2 * w.bytes)
          (inp.length / (2 * w.bytes)) inp)) ∧
      t.engine = .idle := by
  rw [driverCall, if_neg (not_not.mpr hinp), if_neg hlen.not_gt, if_neg hr.not_gt]
  split
  next h0 => exact ⟨s, by rw [h0, Nat.zero_div]; rfl, hi⟩
  next h0 =>
    obtain ⟨t, hks, ht⟩ := driver_schedules (w := w) hi hlen hr
    obtain ⟨u, hu, hidle⟩ := driverBlocks_spec hf ht (inp.length / (2 * w.bytes))
      (Nat.div_mul_cancel (Nat.dvd_of_mod_eq_zero hinp)).symm []
    refine ⟨u, ?_, hidle⟩
    dsimp only
    rw [hks, if_neg (not_not.mpr rfl), hu, List.nil_append]

/-! The checks of a call, in the order of R243. -/

theorem driverCall_bad_length (hinp : inp.length % (2 * w.bytes) ≠ 0) :
    driverCall i e key inp r w s = (s, .error (errorCode e)) := if_pos hinp

theorem driverCall_long_key (hinp : inp.length % (2 * w.bytes) = 0) (hlen : 256 < key.length) :
    driverCall i e key inp r w s = (s, .error (errorCode .invalidKeySize)) := by
  rw [driverCall, if_neg (not_not.mpr hinp), if_pos hlen]

theorem driverCall_many_rounds (hinp : inp.length % (2 * w.bytes) = 0) (hlen : key.length ≤ 256) (hr : 255 < r) :
    driverCall i e key inp r w s = (s, .error (errorCode .invalidRoundsCount)) := by
  rw [driverCall, if_neg (not_not.mpr hinp), if_neg hlen.not_gt, if_pos hr]

/-- With illegal arguments a call answers an error code before it accesses the core. -/
theorem driverCall_illegal (h : ¬(key.length ≤ 256 ∧ r ≤ 255 ∧ inp.length % (2 * w.bytes) = 0)) (i : Instr)
    (e : ErrorKind) : ∃ c, ∀ s, (driverCall i e key inp r w s).2 = .error c := by
  by_cases hinp : inp.length % (2 * w.bytes) = 0
  · rcases Nat.lt_or_ge 256 key.length with hlen | hlen
    · exact ⟨_, fun s => congrArg Prod.snd (driverCall_long_key hinp hlen)⟩
    · have hr : 255 < r := Nat.lt_of_not_le fun hr => h ⟨hlen, hr, hinp⟩
      exact ⟨_, fun s => congrArg Prod.snd (driverCall_many_rounds hinp hlen hr)⟩
  · exact ⟨_, fun s => congrArg Prod.snd (driverCall_bad_length hinp)⟩

/-- The result of a call is that of its arguments. -/
theorem driverCall_pure (hf : IsBlockCommand i f) {s' : State} (hi : s.engine = .idle) (hi' : s'.engine = .idle) :
    (driverCall i e key inp r w s).2 = (driverCall i e key inp r w s').2 := by
  by_cases h : key.length ≤ 256 ∧ r ≤ 255 ∧ inp.length % (2 * w.bytes) = 0
  · obtain ⟨hlen, hr, hinp⟩ := h
    obtain ⟨t, ht, -⟩ := driverCall_legal (e := e) hf hi hlen hr hinp
    obtain ⟨t', ht', -⟩ := driverCall_legal (e := e) hf hi' hlen hr hinp
    rw [ht, ht']
  · obtain ⟨c, hc⟩ := driverCall_illegal h i e
    rw [hc, hc]

end

/-- Settles O60: a call answers an error code of its arguments, or the transformed blocks, whose subkeys are those of
its arguments. -/
theorem driverIsPure : Obligations.DriverIsPure := fun _ _ _ _ _ _ hi hi' =>
  ⟨driverCall_pure isBlockCommand_enc hi hi', driverCall_pure isBlockCommand_dec hi hi'⟩

/-- Decrypting an encrypted block with the same subkeys gives it back. -/
theorem transformBlock_inv_fwd {w : Width} {blk : List Byte} (h : blk.length = 2 * w.bytes) (sk : Nat → Word w)
    (r : Nat) :
    transformBlock inv w sk r (transformBlock fwd w sk r blk) = blk := by
  rw [transformBlock, transformBlock, blockWords_blockBytes, inv_fwd, blockBytes_blockWords h]

/-- Settles O59: both calls transform the same number of blocks with the same subkeys, and the second undoes the first
block by block. -/
theorem driverRoundTrips : Obligations.DriverRoundTrips := by
  intro key pt r w s hi hlen hr hpt
  obtain ⟨s', hs', hi'⟩ := driverCall_legal (e := .invalidPlaintextLength) isBlockCommand_enc hi hlen hr hpt
  have hnum : pt.length / (2 * w.bytes) * (2 * w.bytes) = pt.length := Nat.div_mul_cancel (Nat.dvd_of_mod_eq_zero hpt)
  have hct := (mapBlocks_length (transformBlock_length (f := fwd) (sk := driverSubkey w r key) (r := r))
    (pt.length / (2 * w.bytes)) pt).trans hnum
  obtain ⟨s'', hs'', -⟩ := driverCall_legal (e := .invalidCipherTextLength) isBlockCommand_dec hi' hlen hr
    ((congrArg (· % (2 * w.bytes)) hct).trans hpt)
  rw [hct, mapBlocks_mapBlocks transformBlock_length (fun _ hblk => transformBlock_inv_fwd hblk _ r) _ hnum.symm]
    at hs''
  exact ⟨s', s'', _, hs', hct, hs''⟩

end Sys2Proof.Machine
end
